-- ==== Sys2Proof/Word.lean ====
section
/-! DEFINITION. The word types of BPT-CORE (`00_scope.md` R10, R11). -/

namespace Sys2Proof

/-- A byte, bit 7 most significant (R10). -/
abbrev Byte := BitVec 8

/-- A word register or bus word, bit 31 most significant (R10). -/
abbrev Word := BitVec 32

/-- A byte string `a`: `a[0]` first, the byte written first in hex (R10). -/
abbrev Bytes := List Byte

/-- A nibble, the unit of digit strings and PIN blocks (R11). -/
abbrev Nibble := BitVec 4

/-- A byte offset inside the 0x4000-byte register window, `0 <= off < 0x4000` (R60). -/
abbrev Offset := BitVec 14

end Sys2Proof
end

