-- ==== Sys2Proof/Machine/ByteString.lean ====
section
/-! DEFINITION. Byte strings, big-endian integers, nibbles and digits (`00_scope.md` R10 to R12). -/

namespace Sys2Proof.Machine

/-- `zeros(n)` (R10). -/
def zeros (n : Nat) : Bytes := List.replicate n 0

/-- `a xor b`, bytewise, of two strings of equal length (R10). -/
def xorBytes (a b : Bytes) : Bytes := List.zipWith (· ^^^ ·) a b

/-- `int(a)`: the unsigned integer whose big-endian representation is `a` (R10). -/
def int (a : Bytes) : Nat := a.foldl (fun acc b => 256 * acc + b.toNat) 0

/-- `be(n, v)`: the n-byte big-endian string of `v` (R10). -/
def be : Nat → Nat → Bytes
  | 0, _ => []
  | n + 1, v => BitVec.ofNat 8 (v / 256 ^ n) :: be n v

/-- `a[i..j)` (R10). -/
def slice (a : Bytes) (i j : Nat) : Bytes := (a.drop i).take (j - i)

/-- The first `n` blocks of `b` bytes of a string, in order. -/
def blocksOf (b : Nat) : Nat → Bytes → List Bytes
  | 0, _ => []
  | n + 1, d => d.take b :: blocksOf b n (d.drop b)

/-- The high and the low nibble of a byte (R11). -/
def hiNibble (b : Byte) : Nibble := b.extractLsb' 4 4
def loNibble (b : Byte) : Nibble := b.extractLsb' 0 4

/-- `nib(a)`: the nibbles of `a`, high nibble of `a[0]` first (R11). -/
def nibs : Bytes → List Nibble
  | [] => []
  | b :: r => hiNibble b :: loNibble b :: nibs r

/-- `nib(b, k)`, nibble k of a block (R250). -/
def nib (b : Bytes) (k : Nat) : Nibble := (nibs b).getD k 0

/-- `pack(d)`: a nibble sequence of even length packed two per byte, first nibble in the high half (R11). -/
def pack : List Nibble → Bytes
  | h :: l :: r => (h ++ l) :: pack r
  | _ => []

/-- The digit a byte of a digit buffer holds (R38). -/
def digitOf (b : Byte) : Nibble := loNibble b

/-- The byte of a digit buffer that holds a digit (R38). -/
def digitByte (d : Nibble) : Byte := d.setWidth 8

/-- The last `n` elements. -/
def lastN {α : Type} (n : Nat) (l : List α) : List α := l.drop (l.length - n)

/-- The rightmost `n` digits, left-padded with the digit 0 when there are fewer (R201, R252). -/
def rightDigits (n : Nat) (ds : List Nibble) : List Nibble :=
  List.replicate (n - ds.length) 0 ++ lastN n ds

end Sys2Proof.Machine
end

