-- ==== Sys2Proof/Machine/Aes.lean ====
section
/-! DEFINITION. AES (`40_block_primitives.md` R132 to R138). The state is the block itself: byte s[r][c] of the 4x4
array is byte 4c + r of the 16-byte string (R132). -/

namespace Sys2Proof.Machine

/-- `xtime(a)`: multiplication by x in GF(2^8) modulo 0x11B (R133). -/
def xtime (a : Byte) : Byte := if a.msb then a <<< 1 ^^^ 0x1B else a <<< 1

/-- `xtime^i(a)`. -/
def xtimes : Nat → Byte → Byte
  | 0, a => a
  | i + 1, a => xtimes i (xtime a)

/-- `mul(a, b)`: the xor of `xtime^i(a)` over the set bits i of `b` (R133). -/
def gmul (a b : Byte) : Byte :=
  (List.range 8).foldl (fun acc i => if b.getLsbD i then acc ^^^ xtimes i a else acc) 0

/-- SBOX by row (high nibble) and column (low nibble) (R134). -/
def sboxTable : List (List Byte) := [
  [0x63, 0x7C, 0x77, 0x7B, 0xF2, 0x6B, 0x6F, 0xC5, 0x30, 0x01, 0x67, 0x2B, 0xFE, 0xD7, 0xAB, 0x76],
  [0xCA, 0x82, 0xC9, 0x7D, 0xFA, 0x59, 0x47, 0xF0, 0xAD, 0xD4, 0xA2, 0xAF, 0x9C, 0xA4, 0x72, 0xC0],
  [0xB7, 0xFD, 0x93, 0x26, 0x36, 0x3F, 0xF7, 0xCC, 0x34, 0xA5, 0xE5, 0xF1, 0x71, 0xD8, 0x31, 0x15],
  [0x04, 0xC7, 0x23, 0xC3, 0x18, 0x96, 0x05, 0x9A, 0x07, 0x12, 0x80, 0xE2, 0xEB, 0x27, 0xB2, 0x75],
  [0x09, 0x83, 0x2C, 0x1A, 0x1B, 0x6E, 0x5A, 0xA0, 0x52, 0x3B, 0xD6, 0xB3, 0x29, 0xE3, 0x2F, 0x84],
  [0x53, 0xD1, 0x00, 0xED, 0x20, 0xFC, 0xB1, 0x5B, 0x6A, 0xCB, 0xBE, 0x39, 0x4A, 0x4C, 0x58, 0xCF],
  [0xD0, 0xEF, 0xAA, 0xFB, 0x43, 0x4D, 0x33, 0x85, 0x45, 0xF9, 0x02, 0x7F, 0x50, 0x3C, 0x9F, 0xA8],
  [0x51, 0xA3, 0x40, 0x8F, 0x92, 0x9D, 0x38, 0xF5, 0xBC, 0xB6, 0xDA, 0x21, 0x10, 0xFF, 0xF3, 0xD2],
  [0xCD, 0x0C, 0x13, 0xEC, 0x5F, 0x97, 0x44, 0x17, 0xC4, 0xA7, 0x7E, 0x3D, 0x64, 0x5D, 0x19, 0x73],
  [0x60, 0x81, 0x4F, 0xDC, 0x22, 0x2A, 0x90, 0x88, 0x46, 0xEE, 0xB8, 0x14, 0xDE, 0x5E, 0x0B, 0xDB],
  [0xE0, 0x32, 0x3A, 0x0A, 0x49, 0x06, 0x24, 0x5C, 0xC2, 0xD3, 0xAC, 0x62, 0x91, 0x95, 0xE4, 0x79],
  [0xE7, 0xC8, 0x37, 0x6D, 0x8D, 0xD5, 0x4E, 0xA9, 0x6C, 0x56, 0xF4, 0xEA, 0x65, 0x7A, 0xAE, 0x08],
  [0xBA, 0x78, 0x25, 0x2E, 0x1C, 0xA6, 0xB4, 0xC6, 0xE8, 0xDD, 0x74, 0x1F, 0x4B, 0xBD, 0x8B, 0x8A],
  [0x70, 0x3E, 0xB5, 0x66, 0x48, 0x03, 0xF6, 0x0E, 0x61, 0x35, 0x57, 0xB9, 0x86, 0xC1, 0x1D, 0x9E],
  [0xE1, 0xF8, 0x98, 0x11, 0x69, 0xD9, 0x8E, 0x94, 0x9B, 0x1E, 0x87, 0xE9, 0xCE, 0x55, 0x28, 0xDF],
  [0x8C, 0xA1, 0x89, 0x0D, 0xBF, 0xE6, 0x42, 0x68, 0x41, 0x99, 0x2D, 0x0F, 0xB0, 0x54, 0xBB, 0x16]]

/-- INV_SBOX (R135). -/
def invSboxTable : List (List Byte) := [
  [0x52, 0x09, 0x6A, 0xD5, 0x30, 0x36, 0xA5, 0x38, 0xBF, 0x40, 0xA3, 0x9E, 0x81, 0xF3, 0xD7, 0xFB],
  [0x7C, 0xE3, 0x39, 0x82, 0x9B, 0x2F, 0xFF, 0x87, 0x34, 0x8E, 0x43, 0x44, 0xC4, 0xDE, 0xE9, 0xCB],
  [0x54, 0x7B, 0x94, 0x32, 0xA6, 0xC2, 0x23, 0x3D, 0xEE, 0x4C, 0x95, 0x0B, 0x42, 0xFA, 0xC3, 0x4E],
  [0x08, 0x2E, 0xA1, 0x66, 0x28, 0xD9, 0x24, 0xB2, 0x76, 0x5B, 0xA2, 0x49, 0x6D, 0x8B, 0xD1, 0x25],
  [0x72, 0xF8, 0xF6, 0x64, 0x86, 0x68, 0x98, 0x16, 0xD4, 0xA4, 0x5C, 0xCC, 0x5D, 0x65, 0xB6, 0x92],
  [0x6C, 0x70, 0x48, 0x50, 0xFD, 0xED, 0xB9, 0xDA, 0x5E, 0x15, 0x46, 0x57, 0xA7, 0x8D, 0x9D, 0x84],
  [0x90, 0xD8, 0xAB, 0x00, 0x8C, 0xBC, 0xD3, 0x0A, 0xF7, 0xE4, 0x58, 0x05, 0xB8, 0xB3, 0x45, 0x06],
  [0xD0, 0x2C, 0x1E, 0x8F, 0xCA, 0x3F, 0x0F, 0x02, 0xC1, 0xAF, 0xBD, 0x03, 0x01, 0x13, 0x8A, 0x6B],
  [0x3A, 0x91, 0x11, 0x41, 0x4F, 0x67, 0xDC, 0xEA, 0x97, 0xF2, 0xCF, 0xCE, 0xF0, 0xB4, 0xE6, 0x73],
  [0x96, 0xAC, 0x74, 0x22, 0xE7, 0xAD, 0x35, 0x85, 0xE2, 0xF9, 0x37, 0xE8, 0x1C, 0x75, 0xDF, 0x6E],
  [0x47, 0xF1, 0x1A, 0x71, 0x1D, 0x29, 0xC5, 0x89, 0x6F, 0xB7, 0x62, 0x0E, 0xAA, 0x18, 0xBE, 0x1B],
  [0xFC, 0x56, 0x3E, 0x4B, 0xC6, 0xD2, 0x79, 0x20, 0x9A, 0xDB, 0xC0, 0xFE, 0x78, 0xCD, 0x5A, 0xF4],
  [0x1F, 0xDD, 0xA8, 0x33, 0x88, 0x07, 0xC7, 0x31, 0xB1, 0x12, 0x10, 0x59, 0x27, 0x80, 0xEC, 0x5F],
  [0x60, 0x51, 0x7F, 0xA9, 0x19, 0xB5, 0x4A, 0x0D, 0x2D, 0xE5, 0x7A, 0x9F, 0x93, 0xC9, 0x9C, 0xEF],
  [0xA0, 0xE0, 0x3B, 0x4D, 0xAE, 0x2A, 0xF5, 0xB0, 0xC8, 0xEB, 0xBB, 0x3C, 0x83, 0x53, 0x99, 0x61],
  [0x17, 0x2B, 0x04, 0x7E, 0xBA, 0x77, 0xD6, 0x26, 0xE1, 0x69, 0x14, 0x63, 0x55, 0x21, 0x0C, 0x7D]]

/-- A byte looked up in a 16 by 16 table: row its high nibble, column its low nibble. -/
def lookup (t : List (List Byte)) (a : Byte) : Byte := (t.getD (a.toNat / 16) []).getD (a.toNat % 16) 0

/-- SBOX[a] (R134). -/
def sub (a : Byte) : Byte := lookup sboxTable a

/-- INV_SBOX[a] (R135). -/
def invSub (a : Byte) : Byte := lookup invSboxTable a

/-- RCON[1..10] (R136). -/
def rcon : List Byte := [0x01, 0x02, 0x04, 0x08, 0x10, 0x20, 0x40, 0x80, 0x1B, 0x36]

/-- `RotWord(a0 a1 a2 a3) = a1 a2 a3 a0` (R136). -/
def rotWord (w : Bytes) : Bytes := w.drop 1 ++ w.take 1

/-- Word `w[i]` of the key expansion from the words before it, `i >= Nk` (R136). -/
def nextWord (nk : Nat) (w : List Bytes) : Bytes :=
  let i := w.length
  let t := w.getD (i - 1) []
  let t' :=
    if i % nk = 0 then xorBytes ((rotWord t).map sub) [rcon.getD (i / nk - 1) 0, 0, 0, 0]
    else if nk = 8 ∧ i % 8 = 4 then t.map sub
    else t
  xorBytes (w.getD (i - nk) []) t'

/-- `n` more words of the key expansion (R136). -/
def expandWords (nk : Nat) : Nat → List Bytes → List Bytes
  | 0, w => w
  | n + 1, w => expandWords nk n (w ++ [nextWord nk w])

/-- The round keys 0 .. Nr, 16 bytes each (R136); Nr = Nk + 6 (R132). -/
def aesKeys (key : Bytes) : List Bytes :=
  let nk := key.length / 4
  let nr := nk + 6
  let w := expandWords nk (4 * (nr + 1) - nk) (blocksOf 4 nk key)
  blocksOf 16 (nr + 1) w.flatten

/-- `s'[r][c] = s[r][(c + r) mod 4]` (R137). -/
def shiftRows (s : Bytes) : Bytes :=
  (List.range 16).map fun i => s.getD (4 * ((i / 4 + i % 4) % 4) + i % 4) 0

/-- `s'[r][c] = s[r][(c - r) mod 4]` (R138). -/
def invShiftRows (s : Bytes) : Bytes :=
  (List.range 16).map fun i => s.getD (4 * ((i / 4 + 4 - i % 4) % 4) + i % 4) 0

/-- MixColumns, column by column (R137). -/
def mixColumns : Bytes → Bytes
  | a0 :: a1 :: a2 :: a3 :: r =>
    (gmul a0 2 ^^^ gmul a1 3 ^^^ a2 ^^^ a3) ::
    (a0 ^^^ gmul a1 2 ^^^ gmul a2 3 ^^^ a3) ::
    (a0 ^^^ a1 ^^^ gmul a2 2 ^^^ gmul a3 3) ::
    (gmul a0 3 ^^^ a1 ^^^ a2 ^^^ gmul a3 2) :: mixColumns r
  | _ => []

/-- InvMixColumns (R138). -/
def invMixColumns : Bytes → Bytes
  | a0 :: a1 :: a2 :: a3 :: r =>
    (gmul a0 14 ^^^ gmul a1 11 ^^^ gmul a2 13 ^^^ gmul a3 9) ::
    (gmul a0 9 ^^^ gmul a1 14 ^^^ gmul a2 11 ^^^ gmul a3 13) ::
    (gmul a0 13 ^^^ gmul a1 9 ^^^ gmul a2 14 ^^^ gmul a3 11) ::
    (gmul a0 11 ^^^ gmul a1 13 ^^^ gmul a2 9 ^^^ gmul a3 14) :: invMixColumns r
  | _ => []

/-- Rounds 1 .. Nr of encryption for the round keys that remain; the last has no MixColumns (R137). -/
def aesEncRounds : List Bytes → Bytes → Bytes
  | [], s => s
  | [k], s => xorBytes (shiftRows (s.map sub)) k
  | k :: k2 :: ks, s => aesEncRounds (k2 :: ks) (xorBytes (mixColumns (shiftRows (s.map sub))) k)

/-- Rounds Nr-1 .. 0 of decryption for the round keys that remain; the last has no InvMixColumns (R138). -/
def aesDecRounds : List Bytes → Bytes → Bytes
  | [], s => s
  | [k], s => xorBytes ((invShiftRows s).map invSub) k
  | k :: k2 :: ks, s => aesDecRounds (k2 :: ks) (invMixColumns (xorBytes ((invShiftRows s).map invSub) k))

/-- `AES_E(K, x)` (R137). -/
def aesE (key x : Bytes) : Bytes :=
  match aesKeys key with
  | [] => x
  | k0 :: ks => aesEncRounds ks (xorBytes x k0)

/-- `AES_D(K, x)` (R138). -/
def aesD (key x : Bytes) : Bytes :=
  match (aesKeys key).reverse with
  | [] => x
  | kn :: ks => aesDecRounds ks (xorBytes x kn)

end Sys2Proof.Machine
end

