-- ==== Sys2Proof/Machine/Des.lean ====
section
/-! DEFINITION. DES (`40_block_primitives.md` R122 to R127), tables and round structure as the rules give them. -/

namespace Sys2Proof.Machine

/-- A permutation table applied to a bit string numbered from 1 at the left: bit i of the result is bit `T[i]` of `v`
(R122). The first table entry gives the most significant bit. -/
def permute (m : Nat) {n : Nat} (t : List Nat) (v : BitVec n) : BitVec m :=
  BitVec.ofNat m (t.foldl (fun acc j => 2 * acc + (v.getMsbD (j - 1)).toNat) 0)

/-- PC1 (R123). -/
def pc1 : List Nat := [
  57, 49, 41, 33, 25, 17, 9, 1, 58, 50, 42, 34, 26, 18,
  10, 2, 59, 51, 43, 35, 27, 19, 11, 3, 60, 52, 44, 36,
  63, 55, 47, 39, 31, 23, 15, 7, 62, 54, 46, 38, 30, 22,
  14, 6, 61, 53, 45, 37, 29, 21, 13, 5, 28, 20, 12, 4]

/-- PC2 (R123). -/
def pc2 : List Nat := [
  14, 17, 11, 24, 1, 5, 3, 28, 15, 6, 21, 10,
  23, 19, 12, 4, 26, 8, 16, 7, 27, 20, 13, 2,
  41, 52, 31, 37, 47, 55, 30, 40, 51, 45, 33, 48,
  44, 49, 39, 56, 34, 53, 46, 42, 50, 36, 29, 32]

/-- SHIFT[1..16] (R123). -/
def shifts : List Nat := [
  1, 1, 2, 2, 2, 2, 2, 2, 1, 2, 2, 2, 2, 2, 2, 1]

/-- IP (R124). -/
def ip : List Nat := [
  58, 50, 42, 34, 26, 18, 10, 2, 60, 52, 44, 36, 28, 20, 12, 4,
  62, 54, 46, 38, 30, 22, 14, 6, 64, 56, 48, 40, 32, 24, 16, 8,
  57, 49, 41, 33, 25, 17, 9, 1, 59, 51, 43, 35, 27, 19, 11, 3,
  61, 53, 45, 37, 29, 21, 13, 5, 63, 55, 47, 39, 31, 23, 15, 7]

/-- FP, the inverse of IP (R124). -/
def fp : List Nat := [
  40, 8, 48, 16, 56, 24, 64, 32, 39, 7, 47, 15, 55, 23, 63, 31,
  38, 6, 46, 14, 54, 22, 62, 30, 37, 5, 45, 13, 53, 21, 61, 29,
  36, 4, 44, 12, 52, 20, 60, 28, 35, 3, 43, 11, 51, 19, 59, 27,
  34, 2, 42, 10, 50, 18, 58, 26, 33, 1, 41, 9, 49, 17, 57, 25]

/-- EXP (R125). -/
def expansion : List Nat := [
  32, 1, 2, 3, 4, 5, 4, 5, 6, 7, 8, 9,
  8, 9, 10, 11, 12, 13, 12, 13, 14, 15, 16, 17,
  16, 17, 18, 19, 20, 21, 20, 21, 22, 23, 24, 25,
  24, 25, 26, 27, 28, 29, 28, 29, 30, 31, 32, 1]

/-- P (R125). -/
def pbox : List Nat := [
  16, 7, 20, 21, 29, 12, 28, 17, 1, 15, 23, 26, 5, 18, 31, 10,
  2, 8, 24, 14, 32, 27, 3, 9, 19, 13, 30, 6, 22, 11, 4, 25]

/-- S1 (R125), rows 0 to 3. -/
def sbox1 : List (List Nat) := [
  [14, 4, 13, 1, 2, 15, 11, 8, 3, 10, 6, 12, 5, 9, 0, 7],
  [0, 15, 7, 4, 14, 2, 13, 1, 10, 6, 12, 11, 9, 5, 3, 8],
  [4, 1, 14, 8, 13, 6, 2, 11, 15, 12, 9, 7, 3, 10, 5, 0],
  [15, 12, 8, 2, 4, 9, 1, 7, 5, 11, 3, 14, 10, 0, 6, 13]]

/-- S2 (R125), rows 0 to 3. -/
def sbox2 : List (List Nat) := [
  [15, 1, 8, 14, 6, 11, 3, 4, 9, 7, 2, 13, 12, 0, 5, 10],
  [3, 13, 4, 7, 15, 2, 8, 14, 12, 0, 1, 10, 6, 9, 11, 5],
  [0, 14, 7, 11, 10, 4, 13, 1, 5, 8, 12, 6, 9, 3, 2, 15],
  [13, 8, 10, 1, 3, 15, 4, 2, 11, 6, 7, 12, 0, 5, 14, 9]]

/-- S3 (R125), rows 0 to 3. -/
def sbox3 : List (List Nat) := [
  [10, 0, 9, 14, 6, 3, 15, 5, 1, 13, 12, 7, 11, 4, 2, 8],
  [13, 7, 0, 9, 3, 4, 6, 10, 2, 8, 5, 14, 12, 11, 15, 1],
  [13, 6, 4, 9, 8, 15, 3, 0, 11, 1, 2, 12, 5, 10, 14, 7],
  [1, 10, 13, 0, 6, 9, 8, 7, 4, 15, 14, 3, 11, 5, 2, 12]]

/-- S4 (R125), rows 0 to 3. -/
def sbox4 : List (List Nat) := [
  [7, 13, 14, 3, 0, 6, 9, 10, 1, 2, 8, 5, 11, 12, 4, 15],
  [13, 8, 11, 5, 6, 15, 0, 3, 4, 7, 2, 12, 1, 10, 14, 9],
  [10, 6, 9, 0, 12, 11, 7, 13, 15, 1, 3, 14, 5, 2, 8, 4],
  [3, 15, 0, 6, 10, 1, 13, 8, 9, 4, 5, 11, 12, 7, 2, 14]]

/-- S5 (R125), rows 0 to 3. -/
def sbox5 : List (List Nat) := [
  [2, 12, 4, 1, 7, 10, 11, 6, 8, 5, 3, 15, 13, 0, 14, 9],
  [14, 11, 2, 12, 4, 7, 13, 1, 5, 0, 15, 10, 3, 9, 8, 6],
  [4, 2, 1, 11, 10, 13, 7, 8, 15, 9, 12, 5, 6, 3, 0, 14],
  [11, 8, 12, 7, 1, 14, 2, 13, 6, 15, 0, 9, 10, 4, 5, 3]]

/-- S6 (R125), rows 0 to 3. -/
def sbox6 : List (List Nat) := [
  [12, 1, 10, 15, 9, 2, 6, 8, 0, 13, 3, 4, 14, 7, 5, 11],
  [10, 15, 4, 2, 7, 12, 9, 5, 6, 1, 13, 14, 0, 11, 3, 8],
  [9, 14, 15, 5, 2, 8, 12, 3, 7, 0, 4, 10, 1, 13, 11, 6],
  [4, 3, 2, 12, 9, 5, 15, 10, 11, 14, 1, 7, 6, 0, 8, 13]]

/-- S7 (R125), rows 0 to 3. -/
def sbox7 : List (List Nat) := [
  [4, 11, 2, 14, 15, 0, 8, 13, 3, 12, 9, 7, 5, 10, 6, 1],
  [13, 0, 11, 7, 4, 9, 1, 10, 14, 3, 5, 12, 2, 15, 8, 6],
  [1, 4, 11, 13, 12, 3, 7, 14, 10, 15, 6, 8, 0, 5, 9, 2],
  [6, 11, 13, 8, 1, 4, 10, 7, 9, 5, 0, 15, 14, 2, 3, 12]]

/-- S8 (R125), rows 0 to 3. -/
def sbox8 : List (List Nat) := [
  [13, 2, 8, 4, 6, 15, 11, 1, 10, 9, 3, 14, 5, 0, 12, 7],
  [1, 15, 13, 8, 10, 3, 7, 4, 12, 5, 6, 11, 0, 14, 9, 2],
  [7, 11, 4, 1, 9, 12, 14, 2, 0, 6, 10, 13, 15, 3, 5, 8],
  [2, 1, 14, 7, 4, 10, 8, 13, 15, 12, 9, 0, 3, 5, 6, 11]]

/-- S1 to S8 (R125). -/
def sboxes : List (List (List Nat)) := [sbox1, sbox2, sbox3, sbox4, sbox5, sbox6, sbox7, sbox8]

/-- The 4-bit output of an S-box for a 6-bit group b1..b6: row 2*b1 + b6, column 8*b2 + 4*b3 + 2*b4 + b5 (R125). -/
def sboxOut (t : List (List Nat)) (g : BitVec 6) : Nat :=
  let row := 2 * (g.getMsbD 0).toNat + (g.getMsbD 5).toNat
  let col := (g.extractLsb' 1 4).toNat
  (t.getD row []).getD col 0

/-- The eight S-boxes on the eight 6-bit groups of a 48-bit value, left to right (R125). -/
def substitute (x : BitVec 48) : BitVec 32 :=
  BitVec.ofNat 32 ((List.range 8).foldl
    (fun acc j => 16 * acc + sboxOut (sboxes.getD j []) (x.extractLsb' (42 - 6 * j) 6)) 0)

/-- The round function `f(R, k) = P(S(EXP(R) xor k))` (R125). -/
def desRound (r : BitVec 32) (k : BitVec 48) : BitVec 32 :=
  permute 32 pbox (substitute (permute 48 expansion r ^^^ k))

/-- The round keys for the remaining shifts: rotate both halves, then PC2 of their concatenation (R123). -/
def roundKeys : List Nat → BitVec 28 → BitVec 28 → List (BitVec 48)
  | [], _, _ => []
  | n :: r, c, d =>
    let c' := c.rotateLeft n
    let d' := d.rotateLeft n
    permute 48 pc2 (c' ++ d') :: roundKeys r c' d'

/-- The key schedule K_1 .. K_16 (R123). -/
def desKeys (key : BitVec 64) : List (BitVec 48) :=
  let cd := permute 56 pc1 key
  roundKeys shifts (cd.extractLsb' 28 28) (cd.extractLsb' 0 28)

/-- The rounds on `(L, R)`: L_i = R_(i-1), R_i = L_(i-1) xor f(R_(i-1), K_i) (R126). -/
def feistel : List (BitVec 48) → BitVec 32 → BitVec 32 → BitVec 32 × BitVec 32
  | [], l, r => (l, r)
  | k :: ks, l, r => feistel ks r (l ^^^ desRound r k)

/-- IP, the rounds, the swap, FP (R126). -/
def desCore (ks : List (BitVec 48)) (x : BitVec 64) : BitVec 64 :=
  let v := permute 64 ip x
  let lr := feistel ks (v.extractLsb' 32 32) (v.extractLsb' 0 32)
  permute 64 fp (lr.2 ++ lr.1)

/-- An 8-byte string as the 64-bit string of R122. -/
def bits64 (a : Bytes) : BitVec 64 := BitVec.ofNat 64 (int a)

/-- `DES_E(K, x)`, K and x 8 bytes (R126). -/
def desE (key x : Bytes) : Bytes := be 8 (desCore (desKeys (bits64 key)) (bits64 x)).toNat

/-- `DES_D(K, x)`: the round keys in the order K16 .. K1 (R127). -/
def desD (key x : Bytes) : Bytes := be 8 (desCore (desKeys (bits64 key)).reverse (bits64 x)).toNat

/-- The three 8-byte parts of a 3DES key; a 16-byte key is expanded to K1 ‖ K2 ‖ K1 (R129). -/
def tdesParts (key : Bytes) : Bytes × Bytes × Bytes :=
  let k1 := slice key 0 8
  (k1, slice key 8 16, if key.length = 16 then k1 else slice key 16 24)

/-- `TDES_E(K, x)`: encrypt, decrypt, encrypt (R130). -/
def tdesE (key x : Bytes) : Bytes :=
  let p := tdesParts key
  desE p.2.2 (desD p.2.1 (desE p.1 x))

/-- `TDES_D(K, x)` (R130). -/
def tdesD (key x : Bytes) : Bytes :=
  let p := tdesParts key
  desD p.1 (desE p.2.1 (desD p.2.2 x))

end Sys2Proof.Machine
end

