-- ==== Sys2Proof/Config.lean ====
section
/-! DEFINITION. The parameters of R9 and the free values of the model: what an implementation fixes and what the
spec leaves open. The opaque constants have no body: nothing in Lean can evaluate them. -/

namespace Sys2Proof.Config

/-- The implementations by their `DATA_MAX`: number `n` has `384 + 16 n` bytes, the multiples of 16 from 384 to 4096 (R9,
U7; log entry 5). -/
abbrev DataSize := Fin 233

/-- `DATA_MAX`, the capacity of DIN in bytes (R9, R34). -/
def dataMaxOf (n : DataSize) : Nat := 384 + 16 * n.val

/-- The value R9 decides, the default of U7: 1024 bytes. -/
def dataSizeDefault : DataSize := 40

/-- The open bus address of the window, in units of the window's size (R9, U6; log entry 6). -/
opaque baseIndex : Nat

/-- `BASE`, a multiple of 0x4000; no rule depends on it (R9, R65, U6). -/
def base : Nat := 0x4000 * baseIndex

/-- `MC_SUFFIX_L`, 6 bytes, not in the source: every value is possible (R9, R205, U3; log entry 4). -/
opaque mcSuffixL : BitVec 48

/-- `MC_SUFFIX_R`, 6 bytes, not in the source: every value is possible (R9, R205, U3; log entry 4). -/
opaque mcSuffixR : BitVec 48

/-- The injected random stream: byte number `k` counted from the first draw after power-on. No law of it is
assumed (R14, R45, U5; log entry 3). -/
opaque rngByte : Nat → Byte

end Sys2Proof.Config
end

