-- ==== Sys2Proof/Syntax.lean ====
section
/-! DEFINITION. The commands of BPT-CORE: one constructor per row of the opcode table (R97). A command has no register
operands (R90); the six rows with a variable ARG field carry its value. -/

namespace Sys2Proof

/-- One command, a row of R97. `arg` is the 4-bit ARG field (R94): length code, component count. -/
inductive Instr where
  /-- DES.ECB.ENC (R152). -/
  | desEcbEnc
  /-- DES.ECB.DEC (R153). -/
  | desEcbDec
  /-- DES.CBC.ENC (R154). -/
  | desCbcEnc
  /-- DES.CBC.DEC (R155). -/
  | desCbcDec
  /-- DES.CFB.ENC (R156). -/
  | desCfbEnc
  /-- DES.CFB.DEC (R157). -/
  | desCfbDec
  /-- DES.OFB.ENC (R159). -/
  | desOfbEnc
  /-- DES.OFB.DEC (R160). -/
  | desOfbDec
  /-- DES.CTR.ENC (R161). -/
  | desCtrEnc
  /-- DES.CTR.DEC (R162). -/
  | desCtrDec
  /-- AES.ECB.ENC (R152). -/
  | aesEcbEnc
  /-- AES.ECB.DEC (R153). -/
  | aesEcbDec
  /-- AES.CBC.ENC (R154). -/
  | aesCbcEnc
  /-- AES.CBC.DEC (R155). -/
  | aesCbcDec
  /-- AES.CFB.ENC (R156). -/
  | aesCfbEnc
  /-- AES.CFB.DEC (R157). -/
  | aesCfbDec
  /-- AES.OFB.ENC (R159). -/
  | aesOfbEnc
  /-- AES.OFB.DEC (R160). -/
  | aesOfbDec
  /-- AES.CTR.ENC (R161). -/
  | aesCtrEnc
  /-- AES.CTR.DEC (R162). -/
  | aesCtrDec
  /-- MAC.CBC.DES (R181). -/
  | macCbcDes
  /-- MAC.CBC.AES (R181). -/
  | macCbcAes
  /-- MAC.RETAIL (R183). -/
  | macRetail
  /-- MAC.CMAC (R187). -/
  | macCmac
  /-- CMAC.SUBKEYS (R186). -/
  | cmacSubkeys
  /-- KD.UDK (R201). -/
  | kdUdk
  /-- KD.SK.COMMON (R203). -/
  | kdSkCommon
  /-- KD.SK.VISA (R204). -/
  | kdSkVisa
  /-- KD.SK.MC (R205). -/
  | kdSkMc
  /-- DUKPT.IPEK (R209). -/
  | dukptIpek
  /-- DUKPT.KEYSET (R214). -/
  | dukptKeyset
  /-- KSN.INC (R216). -/
  | ksnInc
  /-- AC.GEN.ARQC.COMMON (R232). -/
  | acGenArqcCommon
  /-- AC.GEN.ARQC.VISA (R232). -/
  | acGenArqcVisa
  /-- AC.GEN.ARQC.MC (R232). -/
  | acGenArqcMc
  /-- AC.GEN.TC.COMMON (R232). -/
  | acGenTcCommon
  /-- AC.GEN.TC.VISA (R232). -/
  | acGenTcVisa
  /-- AC.GEN.TC.MC (R232). -/
  | acGenTcMc
  /-- AC.GEN.AAC.COMMON (R232). -/
  | acGenAacCommon
  /-- AC.GEN.AAC.VISA (R232). -/
  | acGenAacVisa
  /-- AC.GEN.AAC.MC (R232). -/
  | acGenAacMc
  /-- AC.VERIFY.COMMON (R236). -/
  | acVerifyCommon
  /-- AC.VERIFY.VISA (R236). -/
  | acVerifyVisa
  /-- AC.VERIFY.MC (R236). -/
  | acVerifyMc
  /-- ARPC.M1 (R238). -/
  | arpcM1
  /-- ARPC.M2 (R240). -/
  | arpcM2
  /-- PIN.CREATE.ISO0 (R256). -/
  | pinCreateIso0
  /-- PIN.CREATE.ISO1 (R257). -/
  | pinCreateIso1
  /-- PIN.CREATE.ISO2 (R258). -/
  | pinCreateIso2
  /-- PIN.CREATE.ISO3 (R259). -/
  | pinCreateIso3
  /-- PIN.CREATE.ISO4 (R260). -/
  | pinCreateIso4
  /-- PIN.EXTRACT.ISO0 (R263). -/
  | pinExtractIso0
  /-- PIN.EXTRACT.ISO1 (R263). -/
  | pinExtractIso1
  /-- PIN.EXTRACT.ISO2 (R263). -/
  | pinExtractIso2
  /-- PIN.EXTRACT.ISO3 (R263). -/
  | pinExtractIso3
  /-- PIN.EXTRACT.ISO4 (R263). -/
  | pinExtractIso4
  /-- PIN.DECRYPT.ISO0 (R265). -/
  | pinDecryptIso0
  /-- PIN.DECRYPT.ISO1 (R265). -/
  | pinDecryptIso1
  /-- PIN.DECRYPT.ISO2 (R265). -/
  | pinDecryptIso2
  /-- PIN.DECRYPT.ISO3 (R265). -/
  | pinDecryptIso3
  /-- PIN.DECRYPT.ISO4 (R265). -/
  | pinDecryptIso4
  /-- PIN.TRANSLATE (R267). -/
  | pinTranslate
  /-- KEY.GEN.DES (R285). -/
  | keyGenDes (arg : Nat)
  /-- KEY.GEN.AES (R285). -/
  | keyGenAes (arg : Nat)
  /-- KEY.SPLIT.DES (R287). -/
  | keySplitDes (arg : Nat)
  /-- KEY.SPLIT.AES (R287). -/
  | keySplitAes (arg : Nat)
  /-- KEY.COMBINE.DES (R290). -/
  | keyCombineDes (arg : Nat)
  /-- KEY.COMBINE.AES (R290). -/
  | keyCombineAes (arg : Nat)
  /-- KEY.KCV.DES (R283). -/
  | keyKcvDes
  /-- KEY.KCV.AES (R283). -/
  | keyKcvAes
  /-- PAR.CHECK (R295). -/
  | parCheck
  /-- PAR.FIX (R296). -/
  | parFix
deriving DecidableEq, Repr

end Sys2Proof
end

