-- ==== Sys2Proof/Machine/State.lean ====
section
/-! DEFINITION. The state of BPT-CORE as plain data (`10_state.md`), the host agent's own state, and the reasons a step
can stop. Reset values are those of R48. -/

namespace Sys2Proof.Machine

/-- The sequencer field STATE (R23). -/
inductive SeqState where
  | idle | busy | done | error
deriving DecidableEq, Repr

/-- The error kinds a command can end with (R331). The two kinds of the taxonomy that STATUS.ERR never reports,
InvalidHexInput (R312) and VerificationFailure (R332), are `CallError`s of the text layer. -/
inductive ErrKind where
  | invalidKeyLength | invalidDataLength | invalidPinLength | componentLengthMismatch
  | componentCountOutOfRange | counterOverflow | invalidOperand | illegalCommand
deriving DecidableEq, Repr

/-- The twelve operand buffers (R31). -/
inductive Buf where
  | key0 | key1 | iv | ksn | un | aux0 | aux1 | aux2 | pan | psn | pin | din
deriving DecidableEq, Repr

/-- The bytes of the buffer windows by window offset, in canonical form: offsets strictly rising, no byte equal to the
0x00 that an unlisted offset reads as (R48; log entry 11). -/
abbrev Memory := List Host.Cell

/-- The width of a bus access in bits. Only 32 is an access of the window; the others are bus errors (R64). -/
inductive AccessWidth where
  | w8 | w16 | w32 | w64
deriving DecidableEq, Repr

/-- A primitive line of a host script with its labels resolved to line numbers (R111). `x` is a local name. -/
inductive HostLine where
  /-- `wr OFF, VAL`: one `BusWrite`. -/
  | wr (width : AccessWidth) (off : Offset) (val : Word)
  /-- `rd OFF -> x`: one `BusRead`. -/
  | rd (width : AccessWidth) (off : Offset) (x : Nat)
  /-- `jmp L`. -/
  | jmp (target : Nat)
  /-- `beq x, MASK, VAL, L`. -/
  | beq (x : Nat) (mask val : Word) (target : Nat)
  /-- `bne x, MASK, VAL, L`. -/
  | bne (x : Nat) (mask val : Word) (target : Nat)
  /-- `halt`. -/
  | halt
  /-- The reads of `rdb -> (n, bytes)` after that of DOUT_LEN: as many words of DOUT as the value of the name `n` says,
  the bytes to the name `x` (R75, R112). -/
  | rdDout (n x : Nat)
deriving DecidableEq, Repr

/-- The response of a bus access (R60, R67). -/
inductive BusResp where
  /-- No access has been made yet. -/
  | none
  /-- A read was served with this word. -/
  | data (v : Word)
  /-- A write was accepted: performed, or ignored as R63 says. -/
  | written
  /-- A bus error: the read data is 0, the write is dropped (R67). -/
  | busError
deriving DecidableEq, Repr

/-- Everything the spec gives the core (R22), and the host agent and inputs beside it. -/
structure State where
  /-- STATUS.STATE (R23). -/
  st : SeqState
  /-- STATUS.VFAIL (R25). -/
  vfail : Bool
  /-- STATUS.PAROK (R25). -/
  parok : Bool
  /-- STATUS.IRQ, the pending bit (R25, R340). -/
  irqPending : Bool
  /-- STATUS.ERR (R42). -/
  err : BitVec 8
  /-- CMD (R29). -/
  cmd : Word
  /-- IEN.IE (R33). -/
  ie : Bool
  /-- ATC (R35). -/
  atc : BitVec 16
  /-- The length registers of the operand buffers (R31, R32). -/
  key0Len : BitVec 8
  key1Len : BitVec 8
  ivLen : BitVec 8
  ksnLen : BitVec 8
  unLen : BitVec 8
  aux0Len : BitVec 8
  aux1Len : BitVec 8
  aux2Len : BitVec 8
  panLen : BitVec 8
  psnLen : BitVec 8
  pinLen : BitVec 8
  dinLen : BitVec 16
  /-- DOUT_LEN (R36). -/
  doutLen : BitVec 16
  /-- The twelve operand buffers and DOUT, by window offset (R30, R31, R36). -/
  mem : Memory
  /-- The host script (R110). This field and those below are the model's own: the environment of the core. -/
  script : List HostLine
  /-- The script's position counter, which belongs to the host (R24, R110). -/
  pos : Nat
  /-- The script's local names with the values read into them, latest first (R110). -/
  locals : List (Nat × Word)
  /-- The words an unfinished `rdb` has read so far, first word first (R112; log entry 22). -/
  rdbWords : List Word
  /-- The script's names for byte strings with the results `rdb` has read into them, latest first (R112). -/
  strings : List (Nat × Bytes)
  /-- The response of the host's last bus access (R67). -/
  resp : BusResp
  /-- LATENCY of each command to come, less one: the host steps between its START and its completion step; an
  exhausted list means none (R9, R380, U4; log entry 2). -/
  latencies : List Nat
  /-- Host steps still to come before the completion step of the running command (R380). -/
  busyLeft : Nat
  /-- Bytes a deterministic test double has put on the random port, next first (R14, R45; log entry 3). -/
  rngQueue : List Byte
  /-- The number of random bytes drawn so far (R382). Past the queue the next byte is `Config.rngByte rngPos`. -/
  rngPos : Nat
  /-- Whether the random port is silent, at each step to come (R344, U15; log entry 27). -/
  rngSilent : List Bool
  /-- Whether the random port is silent at every step past the end of `rngSilent` (R344, U15; log entry 27). -/
  rngDown : Bool
  /-- The level of the reset line at each step to come; past the end it is low (R370; log entry 9). -/
  resetIn : List Bool
  /-- Which implementation this is: its `DATA_MAX`. A parameter, no state of the core: no step writes it (R9, R22, U7;
  log entry 5). -/
  dataSize : Config.DataSize
deriving DecidableEq, Repr

/-- Why a step can fault. No command faults (R344); the one reason concerns the host's own script. -/
inductive Fault where
  /-- Raised by the host step of a `beq`, `bne` or `rdb` on a local name into which no `rd` has read: the notation gives
  such a line no meaning (R110; log entry 8). Safe. -/
  | unreadLocal (x : Nat)
deriving DecidableEq, Repr

/-- Why a step can be refused. No instruction of this model is. -/
inductive Refusal where
  /-- Raised by an arm of `exec` for an instruction with no meaning yet. Safe. No arm raises it. -/
  | notModelled (mnemonic : String)
deriving DecidableEq, Repr

/-- The machine right after reset (R48, R370): every piece of the core's state at the value of R48. The environment
fields are empty: no script, no test double, no latency, a random port that answers, reset line low (log entries 1, 2,
3, 9, 20, 27); DATA_MAX is the 1024 that R9 decides. -/
def State.reset : State where
  st := .idle
  vfail := false
  parok := false
  irqPending := false
  err := 0
  cmd := 0
  ie := false
  atc := 0
  key0Len := 0
  key1Len := 0
  ivLen := 0
  ksnLen := 0
  unLen := 0
  aux0Len := 0
  aux1Len := 0
  aux2Len := 0
  panLen := 0
  psnLen := 0
  pinLen := 0
  dinLen := 0
  doutLen := 0
  mem := []
  script := []
  pos := 0
  locals := []
  rdbWords := []
  strings := []
  resp := .none
  latencies := []
  busyLeft := 0
  rngQueue := []
  rngPos := 0
  rngSilent := []
  rngDown := false
  resetIn := []
  dataSize := Config.dataSizeDefault

end Sys2Proof.Machine
end

