-- ==== Sys2Proof/Machine/Memory.lean ====
section
/-! DEFINITION. Operations over the bytes of the buffer windows. Memory is a list of (offset, byte) pairs in canonical
form; an unlisted offset reads as 0x00, the reset contents of every buffer (R48; log entry 11). -/

namespace Sys2Proof.Machine

/-- What an unlisted offset reads as: every buffer byte is 0x00 after reset (R48). -/
def unlistedByte : Byte := 0

/-- One byte. -/
def Memory.read : Memory → Nat → Byte
  | [], _ => unlistedByte
  | (b, v) :: r, a => if b = a then v else Memory.read r a

/-- The `n` bytes from offset `a` upward. -/
def Memory.readBytes (m : Memory) (a n : Nat) : Bytes := (List.range n).map fun k => m.read (a + k)

/-- The canonical cells of a byte string at an offset: a byte that reads as an unlisted one has no cell. -/
def cellsOf : Nat → Bytes → Memory
  | _, [] => []
  | a, v :: r => if v = unlistedByte then cellsOf (a + 1) r else (a, v) :: cellsOf (a + 1) r

/-- Replace the bytes at offsets `a` to `a + v.length - 1` by `v`. -/
def Memory.store (m : Memory) (a : Nat) (v : Bytes) : Memory :=
  m.filter (fun c => decide (c.1 < a)) ++ cellsOf a v ++ m.filter (fun c => decide (a + v.length ≤ c.1))

/-- Set the `n` bytes from offset `a` upward to 0x00. -/
def Memory.clear (m : Memory) (a n : Nat) : Memory := m.filter fun c => decide (c.1 < a ∨ a + n ≤ c.1)

/-- Offsets strictly rising. -/
def Memory.rising : Memory → Bool
  | [] => true
  | [_] => true
  | c :: d :: r => decide (c.1 < d.1) && Memory.rising (d :: r)

/-- The canonical form: offsets strictly rising, no entry equal to what an unlisted offset reads as. -/
def Memory.wf (m : Memory) : Bool := m.rising && m.all fun c => decide (c.2 ≠ unlistedByte)

end Sys2Proof.Machine
end

