-- ==== Sys2Proof/Machine/Buffers.lean ====
section
/-! DEFINITION. The operand buffers and the output buffer: their windows, capacities, length registers and host access
(`10_state.md` R30 to R41, `20_memory.md` R65). -/

namespace Sys2Proof.Machine

/-- Every operand buffer, in the order of R31. -/
def Buf.all : List Buf := [.key0, .key1, .iv, .ksn, .un, .aux0, .aux1, .aux2, .pan, .psn, .pin, .din]

/-- The window offset of a buffer (R31). -/
def Buf.base : Buf → Nat
  | .key0 => 0x100
  | .key1 => 0x120
  | .iv => 0x140
  | .ksn => 0x150
  | .un => 0x160
  | .aux0 => 0x168
  | .aux1 => 0x170
  | .aux2 => 0x178
  | .pan => 0x180
  | .psn => 0x1A0
  | .pin => 0x1B0
  | .din => 0x1000

/-- `DATA_MAX` of this implementation (R9, R34). -/
def State.dataMax (s : State) : Nat := Config.dataMaxOf s.dataSize

/-- `DOUT_MAX = DATA_MAX + 64` (R9, R36). -/
def State.doutMax (s : State) : Nat := s.dataMax + 64

/-- The capacity of a buffer in bytes where `DATA_MAX` is `dataMax` (R31). -/
def Buf.cap (dataMax : Nat) : Buf → Nat
  | .key0 => 32
  | .key1 => 32
  | .iv => 16
  | .ksn => 10
  | .un => 8
  | .aux0 => 8
  | .aux1 => 8
  | .aux2 => 8
  | .pan => 32
  | .psn => 4
  | .pin => 16
  | .din => dataMax

/-- The bytes of a buffer's window: whole words, so the KSN's window has two bytes that are not stored (R40). -/
def Buf.window (dataMax : Nat) (b : Buf) : Nat := (b.cap dataMax + 3) / 4 * 4

/-- The capacity of a buffer of this implementation. -/
def State.cap (s : State) (b : Buf) : Nat := b.cap s.dataMax

/-- The offset of a buffer's length register (R31). -/
def Buf.lenOff : Buf → Nat
  | .key0 => 0x020
  | .key1 => 0x024
  | .iv => 0x028
  | .ksn => 0x04C
  | .un => 0x03C
  | .aux0 => 0x040
  | .aux1 => 0x044
  | .aux2 => 0x048
  | .pan => 0x030
  | .psn => 0x034
  | .pin => 0x038
  | .din => 0x02C

/-- KEY0, KEY1 and PIN are write-only for the host (R37). -/
def Buf.writeOnly : Buf → Bool
  | .key0 => true
  | .key1 => true
  | .pin => true
  | _ => false

/-- The window offset of DOUT (R36). -/
def doutBase : Nat := 0x2000

/-- The value of a length register (R32). -/
def State.len (s : State) : Buf → Nat
  | .key0 => s.key0Len.toNat
  | .key1 => s.key1Len.toNat
  | .iv => s.ivLen.toNat
  | .ksn => s.ksnLen.toNat
  | .un => s.unLen.toNat
  | .aux0 => s.aux0Len.toNat
  | .aux1 => s.aux1Len.toNat
  | .aux2 => s.aux2Len.toNat
  | .pan => s.panLen.toNat
  | .psn => s.psnLen.toNat
  | .pin => s.pinLen.toNat
  | .din => s.dinLen.toNat

/-- A host write of a length register: the bits the register has are stored, the rest ignored (R32). -/
def State.setLen (s : State) (b : Buf) (v : Word) : State :=
  match b with
  | .key0 => { s with key0Len := v.setWidth 8 }
  | .key1 => { s with key1Len := v.setWidth 8 }
  | .iv => { s with ivLen := v.setWidth 8 }
  | .ksn => { s with ksnLen := v.setWidth 8 }
  | .un => { s with unLen := v.setWidth 8 }
  | .aux0 => { s with aux0Len := v.setWidth 8 }
  | .aux1 => { s with aux1Len := v.setWidth 8 }
  | .aux2 => { s with aux2Len := v.setWidth 8 }
  | .pan => { s with panLen := v.setWidth 8 }
  | .psn => { s with psnLen := v.setWidth 8 }
  | .pin => { s with pinLen := v.setWidth 8 }
  | .din => { s with dinLen := v.setWidth 16 }

/-- Byte `k` of a buffer, `NAME[k]` (R30). -/
def State.byte (s : State) (b : Buf) (k : Nat) : Byte := s.mem.read (b.base + k)

/-- The operand a command sees: `NAME[0..NAME_LEN)` (R30). Every rule checks the length against its legal set first,
and no legal length exceeds the capacity (R338; log entry 23). -/
def State.operand (s : State) (b : Buf) : Bytes := s.mem.readBytes b.base (s.len b)

/-- `DOUT[0..DOUT_LEN)` (R36). -/
def State.output (s : State) : Bytes := s.mem.readBytes doutBase s.doutLen.toNat

/-- The bytes that exist: those of the operand buffers and of DOUT (R30, R31, R36, R40). -/
def State.storedOffset (s : State) (a : Nat) : Bool :=
  Buf.all.any (fun b => decide (b.base ≤ a ∧ a < b.base + s.cap b)) ||
    decide (doutBase ≤ a ∧ a < doutBase + s.doutMax)

end Sys2Proof.Machine
end

