-- ==== Sys2Proof/Machine/Parity.lean ====
section
/-! DEFINITION. Odd parity of key bytes (`46_key_components.md` R280). -/

namespace Sys2Proof.Machine

/-- The number of 1 bits among the 8 bits of a byte. -/
def ones (b : Byte) : Nat := ((List.range 8).map fun i => (b.getLsbD i).toNat).sum

/-- `oddbyte(b)`: the number of 1 bits is odd (R280). -/
def oddByte (b : Byte) : Bool := ones b % 2 == 1

/-- `fixbyte(b)`: bits 7 to 1 kept, bit 0 set to make the parity odd (R280). -/
def fixByte (b : Byte) : Byte :=
  let c := b &&& 0xFE
  if ones c % 2 = 0 then c ||| 0x01 else c

/-- `fixParity(k)` (R280). -/
def fixParity (k : Bytes) : Bytes := k.map fixByte

/-- `checkParity(k)`, true for the empty string (R280). -/
def checkParity (k : Bytes) : Bool := k.all oddByte

end Sys2Proof.Machine
end

