-- ==== Sys2Proof/Machine/Flags.lean ====
section
/-! DEFINITION. STATUS and its fields: the sequencer code, the error codes, the flags and the interrupt output
(`10_state.md` R23, R25, R28, R46; `60_exceptions.md` R331, R340). -/

namespace Sys2Proof.Machine

/-- STATUS[1:0] (R23). -/
def SeqState.code : SeqState → BitVec 2
  | .idle => 0
  | .busy => 1
  | .done => 2
  | .error => 3

/-- The code of an error kind, STATUS[15:8] (R331). -/
def ErrKind.code : ErrKind → BitVec 8
  | .invalidKeyLength => 0x02
  | .invalidDataLength => 0x03
  | .invalidPinLength => 0x04
  | .componentLengthMismatch => 0x05
  | .componentCountOutOfRange => 0x06
  | .counterOverflow => 0x08
  | .invalidOperand => 0x09
  | .illegalCommand => 0x0A

/-- The STATUS word: STATE, VFAIL, PAROK, IRQ, three reserved zeros, ERR, sixteen reserved zeros (R28). -/
def State.status (s : State) : Word :=
  (0 : BitVec 16) ++ s.err ++ (0 : BitVec 3) ++ BitVec.ofBool s.irqPending ++ BitVec.ofBool s.parok
    ++ BitVec.ofBool s.vfail ++ s.st.code

/-- The interrupt output `irq = IEN.IE and STATUS.IRQ`, level-sensitive, no state of its own (R46, R340). -/
def State.irq (s : State) : Bool := s.ie && s.irqPending

/-- VFAIL after AC.VERIFY: the recomputed cryptogram differs from the expected one (R25, R236). -/
def vfailFlag (ac expected : Bytes) : Bool := ac != expected

/-- PAROK after PAR.CHECK: every byte has odd parity (R25, R295). -/
def parokFlag (d : Bytes) : Bool := checkParity d

/-- The result byte of a test: 01 for true, 00 for false (R236, R295). -/
def testByte (b : Bool) : Bytes := if b then [0x01] else [0x00]

end Sys2Proof.Machine
end

