-- ==== Sys2Proof/Machine/Ops.lean ====
section
/-! DEFINITION. The named operations over the state: the two completions of a command (`done`, and `raise`, which is
this hardware's taking of an exception), the ways out of them (ACK, START, ZEROIZE), reset, the random port, and the bus. -/

namespace Sys2Proof.Machine

/-- What a meaning answers. -/
abbrev Out := Host.Outcome State Fault Refusal

/-! ## DOUT and the two completions -/

/-- DOUT holds `v` and zeros behind it, `DOUT_LEN = len(v)` (R36). `len(v)` never exceeds DOUT_MAX (R334). -/
def State.setDout (s : State) (v : Bytes) : State :=
  { s with
    mem := Memory.store (Memory.clear s.mem doutBase s.doutMax) doutBase (v.take s.doutMax)
    doutLen := BitVec.ofNat 16 v.length }

/-- A completion step's writes: STATE, ERR, the flags, IRQ, DOUT and DOUT_LEN, and nothing else (R30, R334, R335). -/
def State.complete (s : State) (q : SeqState) (err : BitVec 8) (vfail parok : Bool) (v : Bytes) : State :=
  { s.setDout v with
    st := q
    err := err
    vfail := vfail
    parok := parok
    irqPending := true }

/-- The state after `done(v)` with the flags the command's rule writes (R334). -/
def State.doneWith (s : State) (vfail parok : Bool) (v : Bytes) : State := s.complete .done 0x00 vfail parok v

/-- The state after `raise K`: DOUT zero and DOUT_LEN 0, ERR the kind's code, both flags 0, IRQ 1, STATE ERROR (R335). -/
def State.raised (s : State) (k : ErrKind) : State := s.complete .error k.code false false []

/-- `done(v)` of a command that writes no flag (R334). -/
def done (v : Bytes) (s : State) : Out := .next (s.doneWith false false v)

/-- `done(v)` of AC.VERIFY, which writes VFAIL (R236). -/
def doneVfail (vfail : Bool) (v : Bytes) (s : State) : Out := .next (s.doneWith vfail false v)

/-- `done(v)` of PAR.CHECK, which writes PAROK (R295). -/
def doneParok (parok : Bool) (v : Bytes) (s : State) : Out := .next (s.doneWith false parok v)

/-- `raise K`, the error completion: this hardware's taking of an exception (R335, R342). -/
def raise (k : ErrKind) (s : State) : Out := .next (s.raised k)

/-- `done(v)`, or `raise K` when the value could not be computed. -/
def complete (r : Except ErrKind Bytes) (s : State) : Out :=
  match r with
  | .ok v => done v s
  | .error k => raise k s

/-! ## The random port -/

/-- The byte draw number `k` from now delivers: a byte of the test double's queue, or the free value (R14, R45). -/
def State.rngAt (s : State) (k : Nat) : Byte := s.rngQueue.getD k (Config.rngByte (s.rngPos + k))

/-- The bytes of the next `n` draws, first draw first (R14). -/
def State.drawn (s : State) (n : Nat) : Bytes := (List.range n).map s.rngAt

/-- The random port after `n` draws (R382). -/
def State.afterDraws (s : State) (n : Nat) : State :=
  { s with rngQueue := s.rngQueue.drop n, rngPos := s.rngPos + n }

/-! ## CTRL: START, ACK, ZEROIZE; reset -/

/-- ACK in DONE or ERROR: to IDLE, ERR and the flags cleared, DOUT and DOUT_LEN kept (R27 step 2). The return from an
error completion (R343). -/
def State.acked (s : State) : State :=
  { s with st := .idle, err := 0x00, vfail := false, parok := false, irqPending := false }

/-- ACK: acts in DONE and ERROR only (R27 step 2). -/
def State.ack (s : State) : State :=
  match s.st with
  | .idle => s
  | .busy => s
  | .done => s.acked
  | .error => s.acked

/-- The start of a command: DOUT and DOUT_LEN zeroed, ERR and the flags cleared, STATE BUSY (R27 step 3). -/
def State.started (s : State) : State :=
  { s.setDout [] with st := .busy, err := 0x00, vfail := false, parok := false, irqPending := false }

/-- START: acts in IDLE, DONE and ERROR only (R27 step 3). LATENCY of this command is the next of the environment's (R380). -/
def State.start (s : State) : State :=
  match s.st with
  | .busy => s
  | .idle => { s.started with busyLeft := s.latencies.headD 0, latencies := s.latencies.tail }
  | .done => { s.started with busyLeft := s.latencies.headD 0, latencies := s.latencies.tail }
  | .error => { s.started with busyLeft := s.latencies.headD 0, latencies := s.latencies.tail }

/-- Every piece of the core's state at its reset value (R48), the environment kept; a BUSY command is abandoned (R370). -/
def State.coreReset (s : State) : State :=
  { State.reset with
    script := s.script
    pos := s.pos
    locals := s.locals
    rdbWords := s.rdbWords
    strings := s.strings
    resp := s.resp
    latencies := s.latencies
    rngQueue := s.rngQueue
    rngPos := s.rngPos
    rngSilent := s.rngSilent
    rngDown := s.rngDown
    resetIn := s.resetIn
    dataSize := s.dataSize }

/-- ZEROIZE: every piece of the core's state takes its reset value except IEN, in any state (R373). -/
def State.zeroized (s : State) : State := { s.coreReset with ie := s.ie }

/-- A write of `v` to CTRL: ZEROIZE alone; else ACK, then START (R27). -/
def State.writeCtrl (s : State) (v : Word) : State :=
  if v.getLsbD 2 then s.zeroized
  else
    let s1 := if v.getLsbD 1 then s.ack else s
    if v.getLsbD 0 then s1.start else s1

/-! ## The bus -/

/-- What stands at an offset of the window (R65). -/
inductive Loc where
  | id | ctrl | status | cmd | ien | atc
  /-- A length register. -/
  | len (b : Buf)
  | doutLen
  /-- The window word whose first byte is byte `k` of an operand buffer. -/
  | win (b : Buf) (k : Nat)
  /-- The window word whose first byte is byte `k` of DOUT. -/
  | dout (k : Nat)
deriving DecidableEq, Repr

/-- The single registers of the address map (R65). -/
def wordRegs : List (Nat × Loc) :=
  [(0x000, .id), (0x004, .ctrl), (0x008, .status), (0x00C, .cmd), (0x010, .ien), (0x014, .atc), (0x050, .doutLen)]

/-- The address map (R65) where `DATA_MAX` is `dataMax`: what stands at a 4-aligned offset, or nothing where the window is
unmapped (R66). -/
def locate (dataMax a : Nat) : Option Loc :=
  match wordRegs.find? (fun r => r.1 == a) with
  | some r => some r.2
  | none =>
    match Buf.all.find? (fun b => b.lenOff == a) with
    | some b => some (.len b)
    | none =>
      match Buf.all.find? (fun b => decide (b.base ≤ a ∧ a < b.base + b.window dataMax)) with
      | some b => some (.win b (a - b.base))
      | none => if doutBase ≤ a ∧ a < doutBase + (dataMax + 64) then some (.dout (a - doutBase)) else none

/-- The location an access reaches: a 32-bit access at a multiple of 4 that is mapped; else a bus error (R64, R66). -/
def State.access (s : State) (w : AccessWidth) (off : Offset) : Option Loc :=
  match w with
  | .w32 => if off.toNat % 4 = 0 then locate s.dataMax off.toNat else none
  | .w8 => none
  | .w16 => none
  | .w64 => none

/-- A bus word over four bytes: the first in bits [31:24] (R61). -/
def wordOf (b0 b1 b2 b3 : Byte) : Word := b0 ++ b1 ++ b2 ++ b3

/-- The four bytes of a bus word, first byte from bits [31:24] (R61). -/
def bytesOf (v : Word) : Bytes :=
  [v.extractLsb' 24 8, v.extractLsb' 16 8, v.extractLsb' 8 8, v.extractLsb' 0 8]

/-- Byte `k` of a buffer as the bus reads it: a byte the buffer does not store reads 0 (R40, R62). -/
def State.busByte (s : State) (b : Buf) (k : Nat) : Byte := if k < s.cap b then s.byte b k else 0

/-- Byte `k` of DOUT. -/
def State.doutByte (s : State) (k : Nat) : Byte := s.mem.read (doutBase + k)

/-- The value a read of a location returns (R26 to R29, R33, R35 to R37, R62). -/
def State.readLoc (s : State) : Loc → Word
  | .id => 0x42505407
  | .ctrl => 0
  | .status => s.status
  | .cmd => s.cmd
  | .ien => (BitVec.ofBool s.ie).setWidth 32
  | .atc => s.atc.setWidth 32
  | .len b => BitVec.ofNat 32 (s.len b)
  | .doutLen => if s.st = .busy then 0 else s.doutLen.setWidth 32
  | .win b k =>
    if b.writeOnly then 0
    else wordOf (s.busByte b k) (s.busByte b (k + 1)) (s.busByte b (k + 2)) (s.busByte b (k + 3))
  | .dout k =>
    if s.st = .busy then 0
    else wordOf (s.doutByte k) (s.doutByte (k + 1)) (s.doutByte (k + 2)) (s.doutByte (k + 3))

/-- The effect of a write of `v` at a location when the core is not BUSY (R27, R63). -/
def State.writeLoc (s : State) (v : Word) : Loc → State
  | .id => s
  | .ctrl => s.writeCtrl v
  | .status => s
  | .cmd => { s with cmd := v }
  | .ien => { s with ie := v.getLsbD 0 }
  | .atc => { s with atc := v.setWidth 16 }
  | .len b => s.setLen b v
  | .doutLen => s
  | .win b k => { s with mem := Memory.store s.mem (b.base + k) ((bytesOf v).take (s.cap b - k)) }
  | .dout _ => s

/-- While BUSY every write is ignored except a CTRL write with ZEROIZE = 1 (R63, R376). -/
def State.writeWhileBusy (s : State) (v : Word) : Loc → State
  | .ctrl => if v.getLsbD 2 then s.zeroized else s
  | _ => s

/-- `BusRead(off)` (R62, R64, R67). No read changes any state. -/
def State.busRead (s : State) (w : AccessWidth) (off : Offset) : BusResp :=
  match s.access w off with
  | some l => .data (s.readLoc l)
  | none => .busError

/-- The response of `BusWrite(off, v)` (R63, R64, R67). -/
def State.busWriteResp (s : State) (w : AccessWidth) (off : Offset) : BusResp :=
  match s.access w off with
  | some _ => .written
  | none => .busError

/-- The effect of `BusWrite(off, v)` (R63, R64, R67, R376). -/
def State.busWrite (s : State) (w : AccessWidth) (off : Offset) (v : Word) : State :=
  match s.access w off with
  | some l => if s.st = .busy then s.writeWhileBusy v l else s.writeLoc v l
  | none => s

/-- The offset a bus address reaches, if it lies in the window at BASE (R60, R65). -/
def windowOffset (addr : Nat) : Option Offset :=
  if Config.base ≤ addr ∧ addr < Config.base + 0x4000 then some (BitVec.ofNat 14 (addr - Config.base)) else none

end Sys2Proof.Machine
end

