-- ==== Sys2Proof/Machine/Operands.lean ====
section
/-! DEFINITION. The operand checks that the command rules number (`60_exceptions.md` R333, R336; `30_encoding.md` R93):
key lengths, small operands, digit buffers, data length. -/

namespace Sys2Proof.Machine

/-- CMD.ALG: the cipher family (R91, R93). -/
inductive Alg where
  | des | aes
deriving DecidableEq, Repr

/-- `B(alg)`: the block size (R93, R121). -/
def Alg.block : Alg → Nat
  | .des => 8
  | .aes => 16

/-- The (ALG, length) pairs of R93; `keyok` of R121. -/
def keyLenOk (alg : Alg) (n : Nat) : Bool :=
  match alg with
  | .des => n == 8 || n == 16 || n == 24
  | .aes => n == 16 || n == 24 || n == 32

/-- A length code of KEY.GEN that names a row of R93 (R284, R285). -/
def keyCodeOk (alg : Alg) (c : Nat) : Bool := keyLenOk alg (8 * c)

/-- KEY0 is a legal key of the family (R121, R151 check 1). -/
def State.key0Ok (s : State) (alg : Alg) : Bool := keyLenOk alg (s.len .key0)

/-- KEY1 is a legal DES-family key (R267 step 2). -/
def State.key1Ok (s : State) : Bool := keyLenOk .des (s.len .key1)

/-- KEY0 has exactly 16 bytes (R183, R200). -/
def State.key16 (s : State) : Bool := s.len .key0 == 16

/-- Every byte of a digit buffer's operand is at most 9, and its length within the capacity (R38, R201 step 2). -/
def State.digitsOk (s : State) (b : Buf) : Bool :=
  decide (s.len b ≤ s.cap b) && (s.operand b).all fun d => decide (d.toNat ≤ 9)

/-- PAN and PSN of R201 step 2, R232 step 2, R236 step 3. -/
def State.cardOk (s : State) : Bool := s.digitsOk .pan && s.digitsOk .psn

/-- The data is at most DATA_MAX bytes (R34). -/
def State.dinFits (s : State) : Bool := decide (s.len .din ≤ s.dataMax)

/-- The data is at most DATA_MAX bytes and a whole number of blocks (R151 check 3). -/
def State.dinWhole (s : State) (alg : Alg) : Bool := s.dinFits && s.len .din % alg.block == 0

/-- The blocks `X_1 .. X_n` of the data (R150). -/
def State.dinBlocks (s : State) (alg : Alg) : List Bytes :=
  blocksOf alg.block (s.len .din / alg.block) (s.operand .din)

end Sys2Proof.Machine
end

