-- ==== Sys2Proof/Machine/Block.lean ====
section
/-! DEFINITION. The one-block functions every mode uses, selected by family and key length (`40_block_primitives.md`
R121), and the key check value (`46_key_components.md` R282). -/

namespace Sys2Proof.Machine

/-- `E(alg, K, x)` for a key of a legal length (R121); every command tests the length first (R336; log entry 24). -/
def blockE (alg : Alg) (key x : Bytes) : Bytes :=
  match alg with
  | .des => if key.length = 8 then desE key x else tdesE key x
  | .aes => aesE key x

/-- `D(alg, K, x)` for a key of a legal length (R121). -/
def blockD (alg : Alg) (key x : Bytes) : Bytes :=
  match alg with
  | .des => if key.length = 8 then desD key x else tdesD key x
  | .aes => aesD key x

/-- `KCV(alg, K) = E(alg, K, zeros(B(alg)))[0..3)` (R282). -/
def kcv (alg : Alg) (key : Bytes) : Bytes := slice (blockE alg key (zeros alg.block)) 0 3

end Sys2Proof.Machine
end

