-- ==== Sys2Proof/Machine/Modes.lean ====
section
/-! DEFINITION. The five modes over a one-block function, with no padding (`41_cipher_modes.md` R152 to R162). Each takes
the data as its list of blocks and answers the list of output blocks. -/

namespace Sys2Proof.Machine

/-- CMD.MODE (R91). -/
inductive Mode where
  | ecb | cbc | cfb | ofb | ctr
deriving DecidableEq, Repr

/-- CMD.DIR (R91). -/
inductive Dir where
  | enc | dec
deriving DecidableEq, Repr

/-- ECB with `E` or `D`: `Y_i = f(X_i)` (R152, R153). -/
def ecb (f : Bytes → Bytes) (xs : List Bytes) : List Bytes := xs.map f

/-- CBC encryption: `Y_i = E(X_i xor Y_(i-1))`, `Y_0 = IV` (R154). -/
def cbcEnc (e : Bytes → Bytes) : Bytes → List Bytes → List Bytes
  | _, [] => []
  | prev, x :: xs => e (xorBytes x prev) :: cbcEnc e (e (xorBytes x prev)) xs

/-- CBC decryption: `Y_i = D(X_i) xor X_(i-1)`, `X_0 = IV` (R155). -/
def cbcDec (d : Bytes → Bytes) : Bytes → List Bytes → List Bytes
  | _, [] => []
  | prev, x :: xs => xorBytes (d x) prev :: cbcDec d x xs

/-- CFB encryption: `Y_i = X_i xor E(Y_(i-1))`, `Y_0 = IV` (R156). -/
def cfbEnc (e : Bytes → Bytes) : Bytes → List Bytes → List Bytes
  | _, [] => []
  | prev, x :: xs => xorBytes x (e prev) :: cfbEnc e (xorBytes x (e prev)) xs

/-- CFB decryption: `Y_i = X_i xor E(X_(i-1))`, `X_0 = IV` (R157). -/
def cfbDec (e : Bytes → Bytes) : Bytes → List Bytes → List Bytes
  | _, [] => []
  | prev, x :: xs => xorBytes x (e prev) :: cfbDec e x xs

/-- OFB in both directions: `O_i = E(O_(i-1))`, `Y_i = X_i xor O_i`, `O_0 = IV` (R159, R160). -/
def ofb (e : Bytes → Bytes) : Bytes → List Bytes → List Bytes
  | _, [] => []
  | o, x :: xs => xorBytes x (e o) :: ofb e (e o) xs

/-- `inc_B(c) = be(B, (int(c) + 1) mod 2^(8B))` (R158). -/
def incBlock (c : Bytes) : Bytes := be c.length ((int c + 1) % 2 ^ (8 * c.length))

/-- CTR in both directions: `Y_i = X_i xor E(C_i)`, `C_(i+1) = inc_B(C_i)`, `C_1 = IV` (R161, R162). -/
def ctr (e : Bytes → Bytes) : Bytes → List Bytes → List Bytes
  | _, [] => []
  | c, x :: xs => xorBytes x (e c) :: ctr e (incBlock c) xs

/-- The output blocks of a mode and direction over `E(alg, K, ·)` and `D(alg, K, ·)` (R152 to R162, R166). -/
def modeBlocks (m : Mode) (d : Dir) (alg : Alg) (key iv : Bytes) (xs : List Bytes) : List Bytes :=
  match m, d with
  | .ecb, .enc => ecb (blockE alg key) xs
  | .ecb, .dec => ecb (blockD alg key) xs
  | .cbc, .enc => cbcEnc (blockE alg key) iv xs
  | .cbc, .dec => cbcDec (blockD alg key) iv xs
  | .cfb, .enc => cfbEnc (blockE alg key) iv xs
  | .cfb, .dec => cfbDec (blockE alg key) iv xs
  | .ofb, .enc => ofb (blockE alg key) iv xs
  | .ofb, .dec => ofb (blockE alg key) iv xs
  | .ctr, .enc => ctr (blockE alg key) iv xs
  | .ctr, .dec => ctr (blockE alg key) iv xs

end Sys2Proof.Machine
end

