-- ==== Sys2Proof/Machine/Cipher.lean ====
section
/-! DEFINITION. The twenty block cipher commands (`41_cipher_modes.md`): the checks of R151, then the mode. -/

namespace Sys2Proof.Machine

/-- A mode that takes an initialisation vector of one block; ECB does not look at it (R151 check 2). -/
def State.ivOk (s : State) (m : Mode) (alg : Alg) : Bool := m == .ecb || s.len .iv == alg.block

/-- A cipher command: checks 1, 2, 3 of R151 in order, then `done(Y_1 ‖ .. ‖ Y_n)` (R150). -/
def cipher (alg : Alg) (m : Mode) (d : Dir) (s : State) : Out :=
  if !s.key0Ok alg then raise .invalidKeyLength s
  else if !s.ivOk m alg then raise .invalidOperand s
  else if !s.dinWhole alg then raise .invalidDataLength s
  else done (modeBlocks m d alg (s.operand .key0) (s.operand .iv) (s.dinBlocks alg)).flatten s

/-- DES.ECB.ENC (R152). -/
def execDesEcbEnc (s : State) : Out := cipher .des .ecb .enc s

/-- DES.ECB.DEC (R153). -/
def execDesEcbDec (s : State) : Out := cipher .des .ecb .dec s

/-- DES.CBC.ENC (R154). -/
def execDesCbcEnc (s : State) : Out := cipher .des .cbc .enc s

/-- DES.CBC.DEC (R155). -/
def execDesCbcDec (s : State) : Out := cipher .des .cbc .dec s

/-- DES.CFB.ENC (R156). -/
def execDesCfbEnc (s : State) : Out := cipher .des .cfb .enc s

/-- DES.CFB.DEC (R157). -/
def execDesCfbDec (s : State) : Out := cipher .des .cfb .dec s

/-- DES.OFB.ENC (R159). -/
def execDesOfbEnc (s : State) : Out := cipher .des .ofb .enc s

/-- DES.OFB.DEC (R160). -/
def execDesOfbDec (s : State) : Out := cipher .des .ofb .dec s

/-- DES.CTR.ENC (R161). -/
def execDesCtrEnc (s : State) : Out := cipher .des .ctr .enc s

/-- DES.CTR.DEC (R162). -/
def execDesCtrDec (s : State) : Out := cipher .des .ctr .dec s

/-- AES.ECB.ENC (R152). -/
def execAesEcbEnc (s : State) : Out := cipher .aes .ecb .enc s

/-- AES.ECB.DEC (R153). -/
def execAesEcbDec (s : State) : Out := cipher .aes .ecb .dec s

/-- AES.CBC.ENC (R154). -/
def execAesCbcEnc (s : State) : Out := cipher .aes .cbc .enc s

/-- AES.CBC.DEC (R155). -/
def execAesCbcDec (s : State) : Out := cipher .aes .cbc .dec s

/-- AES.CFB.ENC (R156). -/
def execAesCfbEnc (s : State) : Out := cipher .aes .cfb .enc s

/-- AES.CFB.DEC (R157). -/
def execAesCfbDec (s : State) : Out := cipher .aes .cfb .dec s

/-- AES.OFB.ENC (R159). -/
def execAesOfbEnc (s : State) : Out := cipher .aes .ofb .enc s

/-- AES.OFB.DEC (R160). -/
def execAesOfbDec (s : State) : Out := cipher .aes .ofb .dec s

/-- AES.CTR.ENC (R161). -/
def execAesCtrEnc (s : State) : Out := cipher .aes .ctr .enc s

/-- AES.CTR.DEC (R162). -/
def execAesCtrDec (s : State) : Out := cipher .aes .ctr .dec s

end Sys2Proof.Machine
end

