-- ==== Sys2Proof/Machine/KeyDerivation.lean ====
section
/-! DEFINITION. Key derivation (`43_key_derivation.md`): EMV UDK and session keys, DUKPT, KSN increment. -/

namespace Sys2Proof.Machine

/-! ## EMV -/

/-- The derivation datum: the last 16 digits of PAN ‖ PSN, left-padded with 0 (R201). -/
def udkDatum (pan psn : Bytes) : Bytes := pack (rightDigits 16 ((pan ++ psn).map digitOf))

/-- `udk(IMK, PAN, PSN)` (R201). -/
def udk (imk pan psn : Bytes) : Bytes :=
  let y := udkDatum pan psn
  tdesE imk y ++ tdesE imk (xorBytes y (List.replicate 8 0xFF))

/-- `sk(U, atc, sufL, sufR)` (R202). -/
def sessionKeyOf (u : Bytes) (atc : BitVec 16) (sufL sufR : Bytes) : Bytes :=
  let a := be 2 atc.toNat
  tdesE u (a ++ sufL) ++ tdesE u (a ++ sufR)

/-- CMD.METHOD (R91). -/
inductive Method where
  | common | visa | mastercard
deriving DecidableEq, Repr

/-- `suffix(METHOD)`: VISA aliases COMMON, MASTERCARD has the open parameters (R202, R204, R205). -/
def suffix : Method → Bytes × Bytes
  | .common => (be 6 0xF00000000000, be 6 0x0F0000000000)
  | .visa => (be 6 0xF00000000000, be 6 0x0F0000000000)
  | .mastercard => (be 6 Config.mcSuffixL.toNat, be 6 Config.mcSuffixR.toNat)

/-- A session key by method (R203 to R205). -/
def sessionKeyFor (m : Method) (u : Bytes) (atc : BitVec 16) : Bytes :=
  sessionKeyOf u atc (suffix m).1 (suffix m).2

/-- KD.UDK (R201). -/
def execKdUdk (s : State) : Out :=
  if !s.key16 then raise .invalidKeyLength s
  else if !s.cardOk then raise .invalidOperand s
  else done (udk (s.operand .key0) (s.operand .pan) (s.operand .psn)) s

/-- KD.SK by method (R203 to R205). -/
def sessionKeyCommand (m : Method) (s : State) : Out :=
  if !s.key16 then raise .invalidKeyLength s
  else done (sessionKeyFor m (s.operand .key0) s.atc) s

/-- KD.SK.COMMON (R203). -/
def execKdSkCommon (s : State) : Out := sessionKeyCommand .common s

/-- KD.SK.VISA (R204). -/
def execKdSkVisa (s : State) : Out := sessionKeyCommand .visa s

/-- KD.SK.MC (R205). -/
def execKdSkMc (s : State) : Out := sessionKeyCommand .mastercard s

/-! ## DUKPT -/

/-- `ctr(ksn)`: the 21-bit counter in the low bits of the last three bytes (R206). -/
def ksnCounter (ksn : Bytes) : Nat :=
  (ksn.getD 7 0 &&& 0x1F).toNat * 2 ^ 16 + (ksn.getD 8 0).toNat * 2 ^ 8 + (ksn.getD 9 0).toNat

/-- `base(ksn)`: the KSN with its counter bits cleared (R206). -/
def ksnBase (ksn : Bytes) : Bytes := slice ksn 0 7 ++ [ksn.getD 7 0 &&& 0xE0, 0x00, 0x00]

/-- The key-register mask KRM and the variant masks (R207). -/
def keyRegisterMask : Bytes := be 16 0xC0C0C0C000000000C0C0C0C000000000
def pinMask : Bytes := be 16 0x00000000000000FF00000000000000FF
def macMask : Bytes := be 16 0x000000000000FF00000000000000FF00
def dataMask : Bytes := be 16 0x0000000000FF00000000000000FF0000

/-- `ipek(BDK, ksn)`: the leftmost 8 bytes of the base KSN under the BDK and the masked BDK (R208). -/
def ipek (bdk ksn : Bytes) : Bytes :=
  let b8 := slice (ksnBase ksn) 0 8
  tdesE bdk b8 ++ tdesE (xorBytes bdk keyRegisterMask) b8

/-- `half(k) = DES_E(k[0..8), r xor k[8..16)) xor k[8..16)` (R210). -/
def dukptHalf (k r : Bytes) : Bytes :=
  xorBytes (desE (slice k 0 8) (xorBytes r (slice k 8 16))) (slice k 8 16)

/-- `nrkg(key, r)`: the masked register gives the left half, the unmasked one the right (R210, conflict C2). -/
def nrkg (key r : Bytes) : Bytes := dukptHalf (xorBytes key keyRegisterMask) r ++ dukptHalf key r

/-- The scan of R211 over counter bits `n-1` down to 0, with the running working KSN and current key. -/
def ctkScan (c : Nat) : Nat → Nat → Bytes → Bytes
  | 0, _, key => key
  | i + 1, r, key =>
    if c.testBit i then ctkScan c i (r ||| 2 ^ i) (nrkg key (be 8 (r ||| 2 ^ i)))
    else ctkScan c i r key

/-- `ctk(BDK, ksn)`, the current transaction key (R211). -/
def ctk (bdk ksn : Bytes) : Bytes :=
  ctkScan (ksnCounter ksn) 21 (int (slice (ksnBase ksn) 2 10)) (ipek bdk ksn)

/-- The PIN-encryption, MAC and data-encryption keys of a current key (R212). -/
def pinVariant (c : Bytes) : Bytes := xorBytes c pinMask
def macVariant (c : Bytes) : Bytes := xorBytes c macMask
def dataVariant (c : Bytes) : Bytes :=
  let v := xorBytes c dataMask
  tdesE v (slice v 0 8) ++ tdesE v (slice v 8 16)

/-- The 90-byte DukptKeySet record: IPEK, KSN, current key, PIN, MAC and data keys (R214). -/
def keySet (bdk ksn : Bytes) : Bytes :=
  let c := ctk bdk ksn
  ipek bdk ksn ++ ksn ++ c ++ pinVariant c ++ macVariant c ++ dataVariant c

/-- KSN_LEN = 10 (R40). -/
def State.ksn10 (s : State) : Bool := s.len .ksn == 10

/-- DUKPT.IPEK (R209). -/
def execDukptIpek (s : State) : Out :=
  if !s.key16 then raise .invalidKeyLength s
  else if !s.ksn10 then raise .invalidOperand s
  else done (ipek (s.operand .key0) (s.operand .ksn)) s

/-- DUKPT.KEYSET (R214). -/
def execDukptKeyset (s : State) : Out :=
  if !s.key16 then raise .invalidKeyLength s
  else if !s.ksn10 then raise .invalidOperand s
  else done (keySet (s.operand .key0) (s.operand .ksn)) s

/-- The KSN with the counter `c` in its low 21 bits (R216). -/
def ksnWithCounter (ksn : Bytes) (c : Nat) : Bytes :=
  slice ksn 0 7 ++
    [(ksn.getD 7 0 &&& 0xE0) ||| BitVec.ofNat 8 (c / 2 ^ 16), BitVec.ofNat 8 (c / 2 ^ 8), BitVec.ofNat 8 c]

/-- KSN.INC (R216): a counter of 2^21 - 1 is CounterOverflow, no wrap. -/
def execKsnInc (s : State) : Out :=
  if !s.ksn10 then raise .invalidOperand s
  else if ksnCounter (s.operand .ksn) = 0x1FFFFF then raise .counterOverflow s
  else done (ksnWithCounter (s.operand .ksn) (ksnCounter (s.operand .ksn) + 1)) s

end Sys2Proof.Machine
end

