-- ==== Sys2Proof/Machine/Mac.lean ====
section
/-! DEFINITION. The MAC commands (`42_mac.md`): CBC-MAC, ISO 9797-1 Retail MAC, AES-CMAC and its subkeys. -/

namespace Sys2Proof.Machine

/-- The CBC chain `H_i = e(P_i xor H_(i-1))` and its last value (R181, R182, R187). -/
def chain (e : Bytes → Bytes) : Bytes → List Bytes → Bytes
  | h, [] => h
  | h, p :: ps => chain e (e (xorBytes p h)) ps

/-- `zpad8(d)`: zeros up to a whole number of 8-byte blocks; the empty string becomes one zero block (R180). -/
def zpad8 (d : Bytes) : Bytes :=
  if d.length = 0 then zeros 8 else d ++ zeros ((8 - d.length % 8) % 8)

/-- `RMAC(K, iv, d)`: single DES under the left half for blocks 1 to n-1, 3DES for the last (R182). -/
def rmac (key iv d : Bytes) : Bytes :=
  let p := zpad8 d
  let n := p.length / 8
  let bs := blocksOf 8 n p
  let h := chain (desE (slice key 0 8)) iv (bs.take (n - 1))
  tdesE key (xorBytes (bs.getD (n - 1) []) h)

/-- `dbl(x)`: doubling in GF(2^128) (R184). -/
def dbl (x : Bytes) : Bytes :=
  let v := int x
  let sh := v * 2 % 2 ^ 128
  be 16 (if v ≥ 2 ^ 127 then sh ^^^ 0x87 else sh)

/-- `subkeys(K)`: `K1 = dbl(AES_E(K, 0))`, `K2 = dbl(K1)` (R185). -/
def subkeys (key : Bytes) : Bytes × Bytes :=
  let k1 := dbl (aesE key (zeros 16))
  (k1, dbl k1)

/-- The last block of CMAC: a full block under K1, else padded with 80 and zeros under K2 (R187). -/
def cmacLast (k1 k2 last : Bytes) : Bytes :=
  if last.length = 16 then xorBytes last k1
  else xorBytes (last ++ [0x80] ++ zeros (15 - last.length)) k2

/-- AES-CMAC of `d`: `n = max(1, ceil(len/16))` blocks chained from zero (R187). -/
def cmac (key d : Bytes) : Bytes :=
  let k := subkeys key
  let n := max 1 ((d.length + 15) / 16)
  let init := blocksOf 16 (n - 1) d
  let last := d.drop (16 * (n - 1))
  chain (aesE key) (zeros 16) (init ++ [cmacLast k.1 k.2 last])

/-- CBC-MAC: the last ciphertext block of CBC (R181). -/
def macCbc (alg : Alg) (s : State) : Out :=
  if !s.key0Ok alg then raise .invalidKeyLength s
  else if !(s.len .iv == alg.block) then raise .invalidOperand s
  else if !(s.dinWhole alg && s.len .din != 0) then raise .invalidDataLength s
  else done (chain (blockE alg (s.operand .key0)) (s.operand .iv) (s.dinBlocks alg)) s

/-- The AES key lengths of MAC.CMAC and CMAC.SUBKEYS (R186, R187 step 1). -/
def State.aesKeyOk (s : State) : Bool := s.key0Ok .aes

/-- MAC.CBC.DES (R181). -/
def execMacCbcDes (s : State) : Out := macCbc .des s

/-- MAC.CBC.AES (R181). -/
def execMacCbcAes (s : State) : Out := macCbc .aes s

/-- The IV of MAC.RETAIL: absent (IV_LEN = 0) is the default zero IV (R183 step 2). -/
def State.retailIv (s : State) : Bytes := if s.len .iv = 0 then zeros 8 else s.operand .iv

/-- MAC.RETAIL (R183). -/
def execMacRetail (s : State) : Out :=
  if !s.key16 then raise .invalidKeyLength s
  else if !(s.len .iv == 0 || s.len .iv == 8) then raise .invalidOperand s
  else if !s.dinFits then raise .invalidDataLength s
  else done (rmac (s.operand .key0) s.retailIv (s.operand .din)) s

/-- MAC.CMAC (R187). -/
def execMacCmac (s : State) : Out :=
  if !s.aesKeyOk then raise .invalidKeyLength s
  else if !s.dinFits then raise .invalidDataLength s
  else done (cmac (s.operand .key0) (s.operand .din)) s

/-- CMAC.SUBKEYS (R186). -/
def execCmacSubkeys (s : State) : Out :=
  if !s.aesKeyOk then raise .invalidKeyLength s
  else done ((subkeys (s.operand .key0)).1 ++ (subkeys (s.operand .key0)).2) s

end Sys2Proof.Machine
end

