-- ==== Sys2Proof/Machine/Cryptogram.lean ====
section
/-! DEFINITION. Cryptogram commands (`44_cryptogram.md`): ARQC, TC and AAC generation, verification, ARPC methods 1 and 2. -/

namespace Sys2Proof.Machine

/-- CMD.CTYPE (R95). -/
inductive CType where
  | arqc | tc | aac
deriving DecidableEq, Repr

/-- Byte 0 of the AC.GEN record (R233). -/
def CType.tag : CType → Byte
  | .arqc => 0x00
  | .tc => 0x01
  | .aac => 0x02

/-- `sessionkey(IMK, PAN, PSN, atc, METHOD)` (R230). -/
def sessionKey (imk pan psn : Bytes) (atc : BitVec 16) (m : Method) : Bytes :=
  sessionKeyFor m (udk imk pan psn) atc

/-- `acinput(txn, atc, un) = txn ‖ be(2, atc) ‖ un` (R231). -/
def acInput (txn : Bytes) (atc : BitVec 16) (un : Bytes) : Bytes := txn ++ be 2 atc.toNat ++ un

/-- The session key of the operands (R232). -/
def State.acSessionKey (s : State) (m : Method) : Bytes :=
  sessionKey (s.operand .key0) (s.operand .pan) (s.operand .psn) s.atc m

/-- The MAC input of the operands (R232). -/
def State.acMacInput (s : State) : Bytes := acInput (s.operand .din) s.atc (s.operand .un)

/-- The application cryptogram of the operands: the Retail MAC under the session key with a zero IV (R232). -/
def State.cryptogram (s : State) (m : Method) : Bytes := rmac (s.acSessionKey m) (zeros 8) s.acMacInput

/-- The output record of AC.GEN (R233). -/
def acRecord (t : CType) (ac key inp : Bytes) : Bytes := [t.tag] ++ ac ++ key ++ be 2 inp.length ++ inp

/-- AC.GEN by type and method (R232). -/
def acGen (t : CType) (m : Method) (s : State) : Out :=
  if !s.key16 then raise .invalidKeyLength s
  else if !s.cardOk then raise .invalidOperand s
  else if !decide (s.len .un ≤ 8) then raise .invalidOperand s
  else if !s.dinFits then raise .invalidDataLength s
  else done (acRecord t (s.cryptogram m) (s.acSessionKey m) s.acMacInput) s

/-- AC.VERIFY by method: a mismatch is DONE with VFAIL = 1 (R236, R332). -/
def acVerify (m : Method) (s : State) : Out :=
  if !s.key16 then raise .invalidKeyLength s
  else if !(s.len .aux0 == 8) then raise .invalidOperand s
  else if !s.cardOk then raise .invalidOperand s
  else if !decide (s.len .un ≤ 8) then raise .invalidOperand s
  else if !s.dinFits then raise .invalidDataLength s
  else
    let bad := vfailFlag (s.cryptogram m) (s.operand .aux0)
    doneVfail bad (testByte (!bad)) s

/-- AC.GEN.ARQC.COMMON (R232). -/
def execAcGenArqcCommon (s : State) : Out := acGen .arqc .common s

/-- AC.GEN.ARQC.VISA (R232). -/
def execAcGenArqcVisa (s : State) : Out := acGen .arqc .visa s

/-- AC.GEN.ARQC.MC (R232). -/
def execAcGenArqcMc (s : State) : Out := acGen .arqc .mastercard s

/-- AC.GEN.TC.COMMON (R232). -/
def execAcGenTcCommon (s : State) : Out := acGen .tc .common s

/-- AC.GEN.TC.VISA (R232). -/
def execAcGenTcVisa (s : State) : Out := acGen .tc .visa s

/-- AC.GEN.TC.MC (R232). -/
def execAcGenTcMc (s : State) : Out := acGen .tc .mastercard s

/-- AC.GEN.AAC.COMMON (R232). -/
def execAcGenAacCommon (s : State) : Out := acGen .aac .common s

/-- AC.GEN.AAC.VISA (R232). -/
def execAcGenAacVisa (s : State) : Out := acGen .aac .visa s

/-- AC.GEN.AAC.MC (R232). -/
def execAcGenAacMc (s : State) : Out := acGen .aac .mastercard s

/-- AC.VERIFY.COMMON (R236). -/
def execAcVerifyCommon (s : State) : Out := acVerify .common s

/-- AC.VERIFY.VISA (R236). -/
def execAcVerifyVisa (s : State) : Out := acVerify .visa s

/-- AC.VERIFY.MC (R236). -/
def execAcVerifyMc (s : State) : Out := acVerify .mastercard s

/-- A string right-padded with zeros to 8 bytes (R238). -/
def padRight8 (a : Bytes) : Bytes := a ++ zeros (8 - a.length)

/-- ARPC.M1 (R238). -/
def execArpcM1 (s : State) : Out :=
  if !s.key16 then raise .invalidKeyLength s
  else if !(s.len .aux0 == 8 && decide (s.len .aux1 ≤ 8)) then raise .invalidOperand s
  else done (tdesE (s.operand .key0) (xorBytes (s.operand .aux0) (padRight8 (s.operand .aux1)))) s

/-- ARPC.M2: the first 4 bytes of the Retail MAC of ARQC ‖ CSU ‖ proprietary data (R240). -/
def execArpcM2 (s : State) : Out :=
  if !s.key16 then raise .invalidKeyLength s
  else if !(s.len .aux0 == 8 && decide (s.len .aux1 ≤ 8) && decide (s.len .aux2 ≤ 8)) then raise .invalidOperand s
  else done (slice (rmac (s.operand .key0) (zeros 8) (s.operand .aux0 ++ s.operand .aux1 ++ s.operand .aux2)) 0 4) s

end Sys2Proof.Machine
end

