-- ==== Sys2Proof/Machine/KeyComponents.lean ====
section
/-! DEFINITION. Key-component commands (`46_key_components.md`): generation, split, combine, key check value, parity. -/

namespace Sys2Proof.Machine

/-- KEY.GEN: `8 * ARG` draws, odd parity forced on every byte (R285). -/
def keyGen (alg : Alg) (arg : Nat) (s : State) : Out :=
  if !keyCodeOk alg arg then raise .invalidKeyLength s
  else done (fixParity (s.drawn (8 * arg))) (s.afterDraws (8 * arg))

/-- `split(alg, K, n)`: n-1 parity-corrected random components in draw order, then the XOR closure (R286). -/
def splitKey (key : Bytes) (n : Nat) (random : Bytes) : List Bytes :=
  let cs := (blocksOf key.length (n - 1) random).map fixParity
  cs ++ [cs.foldl xorBytes key]

/-- The component records of a KeyShare from index `i`: index, value, KCV (R288). -/
def componentRecords (alg : Alg) : Nat → List Bytes → Bytes
  | _, [] => []
  | i, c :: cs => [BitVec.ofNat 8 i] ++ c ++ kcv alg c ++ componentRecords alg (i + 1) cs

/-- `keyshare(alg, K, c_1..c_n)`: count, length, key, its KCV, then the components (R288). -/
def keyShare (alg : Alg) (key : Bytes) (cs : List Bytes) : Bytes :=
  [BitVec.ofNat 8 cs.length, BitVec.ofNat 8 key.length] ++ key ++ kcv alg key ++ componentRecords alg 1 cs

/-- Random bytes of a split into `n` components: `(n-1) * L` (R286, R297). -/
def State.splitDraws (s : State) (n : Nat) : Nat := (n - 1) * s.len .key0

/-- KEY.SPLIT (R287). -/
def keySplit (alg : Alg) (n : Nat) (s : State) : Out :=
  if !s.key0Ok alg then raise .invalidKeyLength s
  else if n < 2 ∨ n > 9 then raise .componentCountOutOfRange s
  else
    done (keyShare alg (s.operand .key0) (splitKey (s.operand .key0) n (s.drawn (s.splitDraws n))))
      (s.afterDraws (s.splitDraws n))

/-- `parse(DIN, count)`: `count` records `[len][value]` that fill the string exactly (R289). -/
def parseRecords : Nat → Bytes → Option (List Bytes)
  | 0, [] => some []
  | 0, _ :: _ => none
  | _ + 1, [] => none
  | n + 1, l :: r =>
    if l.toNat ≤ r.length then (parseRecords n (r.drop l.toNat)).map (r.take l.toNat :: ·) else none

/-- The xor of components of one length (R290). -/
def xorAll : List Bytes → Bytes
  | [] => []
  | c :: cs => cs.foldl xorBytes c

/-- Steps 3 and 4 of R290 on the parsed components. -/
def combineComponents (alg : Alg) (vs : List Bytes) : Except ErrKind Bytes :=
  let l := (vs.headD []).length
  if !vs.all (fun v => v.length == l) then .error .componentLengthMismatch
  else if !keyLenOk alg l then .error .invalidKeyLength
  else .ok (xorAll vs ++ kcv alg (xorAll vs))

/-- KEY.COMBINE (R290). -/
def keyCombine (alg : Alg) (count : Nat) (s : State) : Out :=
  if count = 0 then raise .componentCountOutOfRange s
  else if !s.dinFits then raise .invalidDataLength s
  else
    match parseRecords count (s.operand .din) with
    | none => raise .invalidDataLength s
    | some vs => complete (combineComponents alg vs) s

/-- KEY.KCV (R283). -/
def keyKcv (alg : Alg) (s : State) : Out :=
  if !s.key0Ok alg then raise .invalidKeyLength s
  else done (kcv alg (s.operand .key0)) s

/-- KEY.GEN.DES (R285). -/
def execKeyGenDes (arg : Nat) (s : State) : Out := keyGen .des arg s

/-- KEY.GEN.AES (R285). -/
def execKeyGenAes (arg : Nat) (s : State) : Out := keyGen .aes arg s

/-- KEY.SPLIT.DES (R287). -/
def execKeySplitDes (arg : Nat) (s : State) : Out := keySplit .des arg s

/-- KEY.SPLIT.AES (R287). -/
def execKeySplitAes (arg : Nat) (s : State) : Out := keySplit .aes arg s

/-- KEY.COMBINE.DES (R290). -/
def execKeyCombineDes (arg : Nat) (s : State) : Out := keyCombine .des arg s

/-- KEY.COMBINE.AES (R290). -/
def execKeyCombineAes (arg : Nat) (s : State) : Out := keyCombine .aes arg s

/-- KEY.KCV.DES (R283). -/
def execKeyKcvDes (s : State) : Out := keyKcv .des s

/-- KEY.KCV.AES (R283). -/
def execKeyKcvAes (s : State) : Out := keyKcv .aes s

/-- PAR.CHECK: a failed test is a result, not an error (R295). -/
def execParCheck (s : State) : Out :=
  if !s.dinFits then raise .invalidDataLength s
  else doneParok (parokFlag (s.operand .din)) (testByte (parokFlag (s.operand .din))) s

/-- PAR.FIX (R296). -/
def execParFix (s : State) : Out :=
  if !s.dinFits then raise .invalidDataLength s
  else done (fixParity (s.operand .din)) s

end Sys2Proof.Machine
end

