-- ==== Sys2Proof/Machine/PinBlock.lean ====
section
/-! DEFINITION. PIN-block commands (`45_pin_block.md`): create, extract, decrypt, translate. ISO-4 is the source's
8-byte placeholder, not ISO 9564-1 format 4 (R260, U1; log entry 15). -/

namespace Sys2Proof.Machine

/-- The five formats of R251. -/
inductive PinFormat where
  | iso0 | iso1 | iso2 | iso3 | iso4
deriving DecidableEq, Repr

/-- The control nibble: the format number (R250, R251). -/
def PinFormat.number : PinFormat → Nibble
  | .iso0 => 0
  | .iso1 => 1
  | .iso2 => 2
  | .iso3 => 3
  | .iso4 => 4

/-- `usespan(f)` (R251). -/
def PinFormat.usesPan : PinFormat → Bool
  | .iso0 => true
  | .iso1 => false
  | .iso2 => false
  | .iso3 => true
  | .iso4 => true

/-- `panfield(PAN)`: four zero nibbles, then the rightmost 12 digits without the check digit, left-padded with 0 (R252). -/
def panField (pan : Bytes) : Bytes :=
  pack (List.replicate 4 0 ++ rightDigits 12 (pan.map digitOf).dropLast)

/-- `clear xor panfield(PAN)` when the format uses the PAN, else the block itself (R254, R262). -/
def maskPan (f : PinFormat) (block pan : Bytes) : Bytes :=
  if f.usesPan then xorBytes block (panField pan) else block

/-- `clear(f, PIN, padding)` (R250, R254). -/
def clearBlock (f : PinFormat) (pin : Bytes) (padding : List Nibble) : Bytes :=
  pack (f.number :: BitVec.ofNat 4 pin.length :: (pin.map digitOf ++ padding))

/-- A padding nibble of ISO-1: the low 4 bits of the drawn byte (R257). -/
def padRandomHex (b : Byte) : Nibble := loNibble b

/-- A padding nibble of ISO-3: `0xA + (byte mod 6)` (R259). -/
def padRandomAF (b : Byte) : Nibble := BitVec.ofNat 4 (0xA + b.toNat % 6)

/-- `extract(f, b, PAN)`: only the length nibble is checked (R262). -/
def extractPin (f : PinFormat) (block pan : Bytes) : Except ErrKind Bytes :=
  let c := maskPan f block pan
  let l := (nib c 1).toNat
  if l < 4 ∨ l > 12 then .error .invalidPinLength
  else .ok ((((nibs c).drop 2).take l).map digitByte)

/-- PIN_LEN is 4 to 12 (R253 check 1). -/
def State.pinLenOk (s : State) : Bool := decide (4 ≤ s.len .pin) && decide (s.len .pin ≤ 12)

/-- The PIN's bytes are digits (R253 check 2). -/
def State.pinDigitsOk (s : State) : Bool := (s.operand .pin).all fun d => decide (d.toNat ≤ 9)

/-- The PAN, where the format uses it (R253 check 3, R263 step 2). -/
def State.panOk (s : State) (f : PinFormat) : Bool := !f.usesPan || s.digitsOk .pan

/-- PIN.CREATE: the checks of R253, then the block with the given padding nibbles, `n` random bytes drawn for them. -/
def pinCreate (f : PinFormat) (padding : List Nibble) (draws : Nat) (s : State) : Out :=
  if !s.pinLenOk then raise .invalidPinLength s
  else if !s.pinDigitsOk then raise .invalidOperand s
  else if !s.panOk f then raise .invalidOperand s
  else done (maskPan f (clearBlock f (s.operand .pin) padding) (s.operand .pan)) (s.afterDraws draws)

/-- The number of padding nibbles, `14 - L` (R250). -/
def State.padCount (s : State) : Nat := 14 - s.len .pin

/-- PIN.CREATE.ISO0: padding F, PAN field (R256). -/
def execPinCreateIso0 (s : State) : Out := pinCreate .iso0 (List.replicate s.padCount 0xF) 0 s

/-- PIN.CREATE.ISO1: one draw per padding nibble (R257). -/
def execPinCreateIso1 (s : State) : Out := pinCreate .iso1 ((s.drawn s.padCount).map padRandomHex) s.padCount s

/-- PIN.CREATE.ISO2: padding F (R258). -/
def execPinCreateIso2 (s : State) : Out := pinCreate .iso2 (List.replicate s.padCount 0xF) 0 s

/-- PIN.CREATE.ISO3: one draw per padding nibble, PAN field (R259). -/
def execPinCreateIso3 (s : State) : Out := pinCreate .iso3 ((s.drawn s.padCount).map padRandomAF) s.padCount s

/-- PIN.CREATE.ISO4: padding A, PAN field (R260). -/
def execPinCreateIso4 (s : State) : Out := pinCreate .iso4 (List.replicate s.padCount 0xA) 0 s

/-- PIN.EXTRACT by format (R263). -/
def pinExtract (f : PinFormat) (s : State) : Out :=
  if !(s.len .aux0 == 8) then raise .invalidOperand s
  else if !s.panOk f then raise .invalidOperand s
  else complete (extractPin f (s.operand .aux0) (s.operand .pan)) s

/-- PIN.DECRYPT by format: the DES family on the single block (R265). -/
def pinDecrypt (f : PinFormat) (s : State) : Out :=
  if !s.key0Ok .des then raise .invalidKeyLength s
  else if !(s.len .aux0 == 8) then raise .invalidOperand s
  else if !s.panOk f then raise .invalidOperand s
  else complete (extractPin f (blockD .des (s.operand .key0) (s.operand .aux0)) (s.operand .pan)) s

/-- PIN.EXTRACT.ISO0 (R263). -/
def execPinExtractIso0 (s : State) : Out := pinExtract .iso0 s

/-- PIN.EXTRACT.ISO1 (R263). -/
def execPinExtractIso1 (s : State) : Out := pinExtract .iso1 s

/-- PIN.EXTRACT.ISO2 (R263). -/
def execPinExtractIso2 (s : State) : Out := pinExtract .iso2 s

/-- PIN.EXTRACT.ISO3 (R263). -/
def execPinExtractIso3 (s : State) : Out := pinExtract .iso3 s

/-- PIN.EXTRACT.ISO4 (R263). -/
def execPinExtractIso4 (s : State) : Out := pinExtract .iso4 s

/-- PIN.DECRYPT.ISO0 (R265). -/
def execPinDecryptIso0 (s : State) : Out := pinDecrypt .iso0 s

/-- PIN.DECRYPT.ISO1 (R265). -/
def execPinDecryptIso1 (s : State) : Out := pinDecrypt .iso1 s

/-- PIN.DECRYPT.ISO2 (R265). -/
def execPinDecryptIso2 (s : State) : Out := pinDecrypt .iso2 s

/-- PIN.DECRYPT.ISO3 (R265). -/
def execPinDecryptIso3 (s : State) : Out := pinDecrypt .iso3 s

/-- PIN.DECRYPT.ISO4 (R265). -/
def execPinDecryptIso4 (s : State) : Out := pinDecrypt .iso4 s

/-- PIN.TRANSLATE: the clear block stays inside (R267). -/
def execPinTranslate (s : State) : Out :=
  if !s.key0Ok .des then raise .invalidKeyLength s
  else if !s.key1Ok then raise .invalidKeyLength s
  else if !(s.len .aux0 == 8) then raise .invalidOperand s
  else done (blockE .des (s.operand .key1) (blockD .des (s.operand .key0) (s.operand .aux0))) s

end Sys2Proof.Machine
end

