-- ==== Sys2Proof/Machine/Dispatch.lean ====
section
/-! DEFINITION. The meaning of every command, one arm per constructor: the effect of the completion step (R20). -/

namespace Sys2Proof.Machine

def exec (i : Instr) (s : State) : Host.Outcome State Fault Refusal :=
  match i with
  | .desEcbEnc => Sys2Proof.Machine.execDesEcbEnc s
  | .desEcbDec => Sys2Proof.Machine.execDesEcbDec s
  | .desCbcEnc => Sys2Proof.Machine.execDesCbcEnc s
  | .desCbcDec => Sys2Proof.Machine.execDesCbcDec s
  | .desCfbEnc => Sys2Proof.Machine.execDesCfbEnc s
  | .desCfbDec => Sys2Proof.Machine.execDesCfbDec s
  | .desOfbEnc => Sys2Proof.Machine.execDesOfbEnc s
  | .desOfbDec => Sys2Proof.Machine.execDesOfbDec s
  | .desCtrEnc => Sys2Proof.Machine.execDesCtrEnc s
  | .desCtrDec => Sys2Proof.Machine.execDesCtrDec s
  | .aesEcbEnc => Sys2Proof.Machine.execAesEcbEnc s
  | .aesEcbDec => Sys2Proof.Machine.execAesEcbDec s
  | .aesCbcEnc => Sys2Proof.Machine.execAesCbcEnc s
  | .aesCbcDec => Sys2Proof.Machine.execAesCbcDec s
  | .aesCfbEnc => Sys2Proof.Machine.execAesCfbEnc s
  | .aesCfbDec => Sys2Proof.Machine.execAesCfbDec s
  | .aesOfbEnc => Sys2Proof.Machine.execAesOfbEnc s
  | .aesOfbDec => Sys2Proof.Machine.execAesOfbDec s
  | .aesCtrEnc => Sys2Proof.Machine.execAesCtrEnc s
  | .aesCtrDec => Sys2Proof.Machine.execAesCtrDec s
  | .macCbcDes => Sys2Proof.Machine.execMacCbcDes s
  | .macCbcAes => Sys2Proof.Machine.execMacCbcAes s
  | .macRetail => Sys2Proof.Machine.execMacRetail s
  | .macCmac => Sys2Proof.Machine.execMacCmac s
  | .cmacSubkeys => Sys2Proof.Machine.execCmacSubkeys s
  | .kdUdk => Sys2Proof.Machine.execKdUdk s
  | .kdSkCommon => Sys2Proof.Machine.execKdSkCommon s
  | .kdSkVisa => Sys2Proof.Machine.execKdSkVisa s
  | .kdSkMc => Sys2Proof.Machine.execKdSkMc s
  | .dukptIpek => Sys2Proof.Machine.execDukptIpek s
  | .dukptKeyset => Sys2Proof.Machine.execDukptKeyset s
  | .ksnInc => Sys2Proof.Machine.execKsnInc s
  | .acGenArqcCommon => Sys2Proof.Machine.execAcGenArqcCommon s
  | .acGenArqcVisa => Sys2Proof.Machine.execAcGenArqcVisa s
  | .acGenArqcMc => Sys2Proof.Machine.execAcGenArqcMc s
  | .acGenTcCommon => Sys2Proof.Machine.execAcGenTcCommon s
  | .acGenTcVisa => Sys2Proof.Machine.execAcGenTcVisa s
  | .acGenTcMc => Sys2Proof.Machine.execAcGenTcMc s
  | .acGenAacCommon => Sys2Proof.Machine.execAcGenAacCommon s
  | .acGenAacVisa => Sys2Proof.Machine.execAcGenAacVisa s
  | .acGenAacMc => Sys2Proof.Machine.execAcGenAacMc s
  | .acVerifyCommon => Sys2Proof.Machine.execAcVerifyCommon s
  | .acVerifyVisa => Sys2Proof.Machine.execAcVerifyVisa s
  | .acVerifyMc => Sys2Proof.Machine.execAcVerifyMc s
  | .arpcM1 => Sys2Proof.Machine.execArpcM1 s
  | .arpcM2 => Sys2Proof.Machine.execArpcM2 s
  | .pinCreateIso0 => Sys2Proof.Machine.execPinCreateIso0 s
  | .pinCreateIso1 => Sys2Proof.Machine.execPinCreateIso1 s
  | .pinCreateIso2 => Sys2Proof.Machine.execPinCreateIso2 s
  | .pinCreateIso3 => Sys2Proof.Machine.execPinCreateIso3 s
  | .pinCreateIso4 => Sys2Proof.Machine.execPinCreateIso4 s
  | .pinExtractIso0 => Sys2Proof.Machine.execPinExtractIso0 s
  | .pinExtractIso1 => Sys2Proof.Machine.execPinExtractIso1 s
  | .pinExtractIso2 => Sys2Proof.Machine.execPinExtractIso2 s
  | .pinExtractIso3 => Sys2Proof.Machine.execPinExtractIso3 s
  | .pinExtractIso4 => Sys2Proof.Machine.execPinExtractIso4 s
  | .pinDecryptIso0 => Sys2Proof.Machine.execPinDecryptIso0 s
  | .pinDecryptIso1 => Sys2Proof.Machine.execPinDecryptIso1 s
  | .pinDecryptIso2 => Sys2Proof.Machine.execPinDecryptIso2 s
  | .pinDecryptIso3 => Sys2Proof.Machine.execPinDecryptIso3 s
  | .pinDecryptIso4 => Sys2Proof.Machine.execPinDecryptIso4 s
  | .pinTranslate => Sys2Proof.Machine.execPinTranslate s
  | .keyGenDes arg => Sys2Proof.Machine.execKeyGenDes arg s
  | .keyGenAes arg => Sys2Proof.Machine.execKeyGenAes arg s
  | .keySplitDes arg => Sys2Proof.Machine.execKeySplitDes arg s
  | .keySplitAes arg => Sys2Proof.Machine.execKeySplitAes arg s
  | .keyCombineDes arg => Sys2Proof.Machine.execKeyCombineDes arg s
  | .keyCombineAes arg => Sys2Proof.Machine.execKeyCombineAes arg s
  | .keyKcvDes => Sys2Proof.Machine.execKeyKcvDes s
  | .keyKcvAes => Sys2Proof.Machine.execKeyKcvAes s
  | .parCheck => Sys2Proof.Machine.execParCheck s
  | .parFix => Sys2Proof.Machine.execParFix s

end Sys2Proof.Machine
end

