-- ==== Sys2Proof/WellFormed.lean ====
section
/-! DEFINITION. Which terms of `Instr` are commands a CMD word can hold: ARG is a 4-bit field (R91, R94). -/

namespace Sys2Proof

/-- The ARG value fits the field CMD[19:16] (R91). Every one of the 16 values is encodable (R98). -/
def argFits (arg : Nat) : Bool := arg < 16

/-- A command that some CMD word encodes. -/
def Instr.wellFormed : Instr → Bool
  | .desEcbEnc => true
  | .desEcbDec => true
  | .desCbcEnc => true
  | .desCbcDec => true
  | .desCfbEnc => true
  | .desCfbDec => true
  | .desOfbEnc => true
  | .desOfbDec => true
  | .desCtrEnc => true
  | .desCtrDec => true
  | .aesEcbEnc => true
  | .aesEcbDec => true
  | .aesCbcEnc => true
  | .aesCbcDec => true
  | .aesCfbEnc => true
  | .aesCfbDec => true
  | .aesOfbEnc => true
  | .aesOfbDec => true
  | .aesCtrEnc => true
  | .aesCtrDec => true
  | .macCbcDes => true
  | .macCbcAes => true
  | .macRetail => true
  | .macCmac => true
  | .cmacSubkeys => true
  | .kdUdk => true
  | .kdSkCommon => true
  | .kdSkVisa => true
  | .kdSkMc => true
  | .dukptIpek => true
  | .dukptKeyset => true
  | .ksnInc => true
  | .acGenArqcCommon => true
  | .acGenArqcVisa => true
  | .acGenArqcMc => true
  | .acGenTcCommon => true
  | .acGenTcVisa => true
  | .acGenTcMc => true
  | .acGenAacCommon => true
  | .acGenAacVisa => true
  | .acGenAacMc => true
  | .acVerifyCommon => true
  | .acVerifyVisa => true
  | .acVerifyMc => true
  | .arpcM1 => true
  | .arpcM2 => true
  | .pinCreateIso0 => true
  | .pinCreateIso1 => true
  | .pinCreateIso2 => true
  | .pinCreateIso3 => true
  | .pinCreateIso4 => true
  | .pinExtractIso0 => true
  | .pinExtractIso1 => true
  | .pinExtractIso2 => true
  | .pinExtractIso3 => true
  | .pinExtractIso4 => true
  | .pinDecryptIso0 => true
  | .pinDecryptIso1 => true
  | .pinDecryptIso2 => true
  | .pinDecryptIso3 => true
  | .pinDecryptIso4 => true
  | .pinTranslate => true
  | .keyGenDes arg => argFits arg
  | .keyGenAes arg => argFits arg
  | .keySplitDes arg => argFits arg
  | .keySplitAes arg => argFits arg
  | .keyCombineDes arg => argFits arg
  | .keyCombineAes arg => argFits arg
  | .keyKcvDes => true
  | .keyKcvAes => true
  | .parCheck => true
  | .parFix => true

end Sys2Proof
end

