-- ==== Sys2Proof/Decode.lean ====
section
/-! DEFINITION. Decoding and encoding the CMD word (`30_encoding.md`): the opcode table of R97 as mask and match, the
decoder of R99, and the encoder built from the field layout of R91 and the opcode map of R92. -/

namespace Sys2Proof

/-- Why a CMD word names no command (R96). -/
inductive DecodeError where
  /-- The word matches no row of R97: the completion step ends with IllegalCommand (R96, R336). Safe: the spec's own outcome. -/
  | illegalCommand
deriving DecidableEq, Repr

/-- A row of R97. -/
structure Row where
  pattern : Word
  mask : Word
  /-- The command of the row, given the value of CMD[19:16]. -/
  command : Nat → Instr

/-- `(CMD and mask) = match` (R97, R99). -/
def Row.hit (r : Row) (w : Word) : Bool := w &&& r.mask == r.pattern

/-- Rows of R97, family 41. -/
def cipherRows : List Row := [
  ⟨0x00000001, 0xFFFFFFFF, fun _ => .desEcbEnc⟩,
  ⟨0x00000101, 0xFFFFFFFF, fun _ => .desEcbDec⟩,
  ⟨0x00000201, 0xFFFFFFFF, fun _ => .desCbcEnc⟩,
  ⟨0x00000301, 0xFFFFFFFF, fun _ => .desCbcDec⟩,
  ⟨0x00000401, 0xFFFFFFFF, fun _ => .desCfbEnc⟩,
  ⟨0x00000501, 0xFFFFFFFF, fun _ => .desCfbDec⟩,
  ⟨0x00000601, 0xFFFFFFFF, fun _ => .desOfbEnc⟩,
  ⟨0x00000701, 0xFFFFFFFF, fun _ => .desOfbDec⟩,
  ⟨0x00000801, 0xFFFFFFFF, fun _ => .desCtrEnc⟩,
  ⟨0x00000901, 0xFFFFFFFF, fun _ => .desCtrDec⟩,
  ⟨0x00001001, 0xFFFFFFFF, fun _ => .aesEcbEnc⟩,
  ⟨0x00001101, 0xFFFFFFFF, fun _ => .aesEcbDec⟩,
  ⟨0x00001201, 0xFFFFFFFF, fun _ => .aesCbcEnc⟩,
  ⟨0x00001301, 0xFFFFFFFF, fun _ => .aesCbcDec⟩,
  ⟨0x00001401, 0xFFFFFFFF, fun _ => .aesCfbEnc⟩,
  ⟨0x00001501, 0xFFFFFFFF, fun _ => .aesCfbDec⟩,
  ⟨0x00001601, 0xFFFFFFFF, fun _ => .aesOfbEnc⟩,
  ⟨0x00001701, 0xFFFFFFFF, fun _ => .aesOfbDec⟩,
  ⟨0x00001801, 0xFFFFFFFF, fun _ => .aesCtrEnc⟩,
  ⟨0x00001901, 0xFFFFFFFF, fun _ => .aesCtrDec⟩]

/-- Rows of R97, family 42. -/
def macRows : List Row := [
  ⟨0x00000010, 0xFFFFFFFF, fun _ => .macCbcDes⟩,
  ⟨0x00001010, 0xFFFFFFFF, fun _ => .macCbcAes⟩,
  ⟨0x00000011, 0xFFFFFFFF, fun _ => .macRetail⟩,
  ⟨0x00000012, 0xFFFFFFFF, fun _ => .macCmac⟩,
  ⟨0x00000013, 0xFFFFFFFF, fun _ => .cmacSubkeys⟩]

/-- Rows of R97, family 43. -/
def derivationRows : List Row := [
  ⟨0x00000020, 0xFFFFFFFF, fun _ => .kdUdk⟩,
  ⟨0x00000021, 0xFFFFFFFF, fun _ => .kdSkCommon⟩,
  ⟨0x00100021, 0xFFFFFFFF, fun _ => .kdSkVisa⟩,
  ⟨0x00200021, 0xFFFFFFFF, fun _ => .kdSkMc⟩,
  ⟨0x00000022, 0xFFFFFFFF, fun _ => .dukptIpek⟩,
  ⟨0x00000023, 0xFFFFFFFF, fun _ => .dukptKeyset⟩,
  ⟨0x00000024, 0xFFFFFFFF, fun _ => .ksnInc⟩]

/-- Rows of R97, family 44. -/
def cryptogramRows : List Row := [
  ⟨0x00000030, 0xFFFFFFFF, fun _ => .acGenArqcCommon⟩,
  ⟨0x00100030, 0xFFFFFFFF, fun _ => .acGenArqcVisa⟩,
  ⟨0x00200030, 0xFFFFFFFF, fun _ => .acGenArqcMc⟩,
  ⟨0x00400030, 0xFFFFFFFF, fun _ => .acGenTcCommon⟩,
  ⟨0x00500030, 0xFFFFFFFF, fun _ => .acGenTcVisa⟩,
  ⟨0x00600030, 0xFFFFFFFF, fun _ => .acGenTcMc⟩,
  ⟨0x00800030, 0xFFFFFFFF, fun _ => .acGenAacCommon⟩,
  ⟨0x00900030, 0xFFFFFFFF, fun _ => .acGenAacVisa⟩,
  ⟨0x00A00030, 0xFFFFFFFF, fun _ => .acGenAacMc⟩,
  ⟨0x00000031, 0xFFFFFFFF, fun _ => .acVerifyCommon⟩,
  ⟨0x00100031, 0xFFFFFFFF, fun _ => .acVerifyVisa⟩,
  ⟨0x00200031, 0xFFFFFFFF, fun _ => .acVerifyMc⟩,
  ⟨0x00000032, 0xFFFFFFFF, fun _ => .arpcM1⟩,
  ⟨0x00000033, 0xFFFFFFFF, fun _ => .arpcM2⟩]

/-- Rows of R97, family 45. -/
def pinRows : List Row := [
  ⟨0x00000040, 0xFFFFFFFF, fun _ => .pinCreateIso0⟩,
  ⟨0x00010040, 0xFFFFFFFF, fun _ => .pinCreateIso1⟩,
  ⟨0x00020040, 0xFFFFFFFF, fun _ => .pinCreateIso2⟩,
  ⟨0x00030040, 0xFFFFFFFF, fun _ => .pinCreateIso3⟩,
  ⟨0x00040040, 0xFFFFFFFF, fun _ => .pinCreateIso4⟩,
  ⟨0x00000041, 0xFFFFFFFF, fun _ => .pinExtractIso0⟩,
  ⟨0x00010041, 0xFFFFFFFF, fun _ => .pinExtractIso1⟩,
  ⟨0x00020041, 0xFFFFFFFF, fun _ => .pinExtractIso2⟩,
  ⟨0x00030041, 0xFFFFFFFF, fun _ => .pinExtractIso3⟩,
  ⟨0x00040041, 0xFFFFFFFF, fun _ => .pinExtractIso4⟩,
  ⟨0x00000042, 0xFFFFFFFF, fun _ => .pinDecryptIso0⟩,
  ⟨0x00010042, 0xFFFFFFFF, fun _ => .pinDecryptIso1⟩,
  ⟨0x00020042, 0xFFFFFFFF, fun _ => .pinDecryptIso2⟩,
  ⟨0x00030042, 0xFFFFFFFF, fun _ => .pinDecryptIso3⟩,
  ⟨0x00040042, 0xFFFFFFFF, fun _ => .pinDecryptIso4⟩,
  ⟨0x00000043, 0xFFFFFFFF, fun _ => .pinTranslate⟩]

/-- Rows of R97, family 46. -/
def componentRows : List Row := [
  ⟨0x00000050, 0xFFF0FFFF, fun arg => .keyGenDes arg⟩,
  ⟨0x00001050, 0xFFF0FFFF, fun arg => .keyGenAes arg⟩,
  ⟨0x00000051, 0xFFF0FFFF, fun arg => .keySplitDes arg⟩,
  ⟨0x00001051, 0xFFF0FFFF, fun arg => .keySplitAes arg⟩,
  ⟨0x00000052, 0xFFF0FFFF, fun arg => .keyCombineDes arg⟩,
  ⟨0x00001052, 0xFFF0FFFF, fun arg => .keyCombineAes arg⟩,
  ⟨0x00000053, 0xFFFFFFFF, fun _ => .keyKcvDes⟩,
  ⟨0x00001053, 0xFFFFFFFF, fun _ => .keyKcvAes⟩,
  ⟨0x00000054, 0xFFFFFFFF, fun _ => .parCheck⟩,
  ⟨0x00000055, 0xFFFFFFFF, fun _ => .parFix⟩]

/-- The opcode table: the 72 rows of R97. -/
def opcodeTable : List Row :=
  cipherRows ++ macRows ++ derivationRows ++ cryptogramRows ++ pinRows ++ componentRows

/-- `ARG = CMD[19:16]` (R91). -/
def argField (w : Word) : Nat := (w.extractLsb' 16 4).toNat

/-- The decoding algorithm of R99, total on all 2^32 words; a word that matches no row is rejected by name (R96). -/
def decode (w : Word) : Except DecodeError Instr :=
  match opcodeTable.find? (fun r => r.hit w) with
  | some r => .ok (r.command (argField w))
  | none => .error .illegalCommand

/-- The instruction the decoder reads from a table word. A command is one 32-bit word (R90), so the word itself is
what the decoder takes; the bits above `nbits` are 0. -/
def decodeTableWord (nbits w : Nat) : Option Instr :=
  match decode (BitVec.ofNat 32 (w % 2 ^ nbits)) with
  | .ok i => some i
  | .error _ => none

/-- The fields of the CMD word (R91); a field an opcode does not use is 0 (R96). -/
structure Fields where
  opc : Nat
  dir : Nat := 0
  mode : Nat := 0
  alg : Nat := 0
  arg : Nat := 0
  method : Nat := 0
  ctype : Nat := 0
deriving DecidableEq, Repr

/-- `CMD = OPC | DIR<<8 | MODE<<9 | ALG<<12 | ARG<<16 | METHOD<<20 | CTYPE<<22` (R97). -/
def Fields.word (f : Fields) : Word :=
  BitVec.ofNat 32 f.opc ||| BitVec.ofNat 32 f.dir <<< 8 ||| BitVec.ofNat 32 f.mode <<< 9 ||| BitVec.ofNat 32 f.alg <<< 12
    ||| BitVec.ofNat 32 f.arg <<< 16 ||| BitVec.ofNat 32 f.method <<< 20 ||| BitVec.ofNat 32 f.ctype <<< 22

/-- The field values of each command: the opcode map of R92 and the enumerations of R91, R94 and R95. -/
def Instr.fields : Instr → Fields
  | .desEcbEnc => { opc := 0x01 }
  | .desEcbDec => { opc := 0x01, dir := 1 }
  | .desCbcEnc => { opc := 0x01, mode := 1 }
  | .desCbcDec => { opc := 0x01, dir := 1, mode := 1 }
  | .desCfbEnc => { opc := 0x01, mode := 2 }
  | .desCfbDec => { opc := 0x01, dir := 1, mode := 2 }
  | .desOfbEnc => { opc := 0x01, mode := 3 }
  | .desOfbDec => { opc := 0x01, dir := 1, mode := 3 }
  | .desCtrEnc => { opc := 0x01, mode := 4 }
  | .desCtrDec => { opc := 0x01, dir := 1, mode := 4 }
  | .aesEcbEnc => { opc := 0x01, alg := 1 }
  | .aesEcbDec => { opc := 0x01, dir := 1, alg := 1 }
  | .aesCbcEnc => { opc := 0x01, mode := 1, alg := 1 }
  | .aesCbcDec => { opc := 0x01, dir := 1, mode := 1, alg := 1 }
  | .aesCfbEnc => { opc := 0x01, mode := 2, alg := 1 }
  | .aesCfbDec => { opc := 0x01, dir := 1, mode := 2, alg := 1 }
  | .aesOfbEnc => { opc := 0x01, mode := 3, alg := 1 }
  | .aesOfbDec => { opc := 0x01, dir := 1, mode := 3, alg := 1 }
  | .aesCtrEnc => { opc := 0x01, mode := 4, alg := 1 }
  | .aesCtrDec => { opc := 0x01, dir := 1, mode := 4, alg := 1 }
  | .macCbcDes => { opc := 0x10 }
  | .macCbcAes => { opc := 0x10, alg := 1 }
  | .macRetail => { opc := 0x11 }
  | .macCmac => { opc := 0x12 }
  | .cmacSubkeys => { opc := 0x13 }
  | .kdUdk => { opc := 0x20 }
  | .kdSkCommon => { opc := 0x21 }
  | .kdSkVisa => { opc := 0x21, method := 1 }
  | .kdSkMc => { opc := 0x21, method := 2 }
  | .dukptIpek => { opc := 0x22 }
  | .dukptKeyset => { opc := 0x23 }
  | .ksnInc => { opc := 0x24 }
  | .acGenArqcCommon => { opc := 0x30 }
  | .acGenArqcVisa => { opc := 0x30, method := 1 }
  | .acGenArqcMc => { opc := 0x30, method := 2 }
  | .acGenTcCommon => { opc := 0x30, ctype := 1 }
  | .acGenTcVisa => { opc := 0x30, method := 1, ctype := 1 }
  | .acGenTcMc => { opc := 0x30, method := 2, ctype := 1 }
  | .acGenAacCommon => { opc := 0x30, ctype := 2 }
  | .acGenAacVisa => { opc := 0x30, method := 1, ctype := 2 }
  | .acGenAacMc => { opc := 0x30, method := 2, ctype := 2 }
  | .acVerifyCommon => { opc := 0x31 }
  | .acVerifyVisa => { opc := 0x31, method := 1 }
  | .acVerifyMc => { opc := 0x31, method := 2 }
  | .arpcM1 => { opc := 0x32 }
  | .arpcM2 => { opc := 0x33 }
  | .pinCreateIso0 => { opc := 0x40 }
  | .pinCreateIso1 => { opc := 0x40, arg := 1 }
  | .pinCreateIso2 => { opc := 0x40, arg := 2 }
  | .pinCreateIso3 => { opc := 0x40, arg := 3 }
  | .pinCreateIso4 => { opc := 0x40, arg := 4 }
  | .pinExtractIso0 => { opc := 0x41 }
  | .pinExtractIso1 => { opc := 0x41, arg := 1 }
  | .pinExtractIso2 => { opc := 0x41, arg := 2 }
  | .pinExtractIso3 => { opc := 0x41, arg := 3 }
  | .pinExtractIso4 => { opc := 0x41, arg := 4 }
  | .pinDecryptIso0 => { opc := 0x42 }
  | .pinDecryptIso1 => { opc := 0x42, arg := 1 }
  | .pinDecryptIso2 => { opc := 0x42, arg := 2 }
  | .pinDecryptIso3 => { opc := 0x42, arg := 3 }
  | .pinDecryptIso4 => { opc := 0x42, arg := 4 }
  | .pinTranslate => { opc := 0x43 }
  | .keyGenDes arg => { opc := 0x50, arg := arg }
  | .keyGenAes arg => { opc := 0x50, alg := 1, arg := arg }
  | .keySplitDes arg => { opc := 0x51, arg := arg }
  | .keySplitAes arg => { opc := 0x51, alg := 1, arg := arg }
  | .keyCombineDes arg => { opc := 0x52, arg := arg }
  | .keyCombineAes arg => { opc := 0x52, alg := 1, arg := arg }
  | .keyKcvDes => { opc := 0x53 }
  | .keyKcvAes => { opc := 0x53, alg := 1 }
  | .parCheck => { opc := 0x54 }
  | .parFix => { opc := 0x55 }

/-- The CMD word of a well-formed command (R97, R113). -/
def encode (i : Instr) : Word := i.fields.word

end Sys2Proof
end

