-- ==== Sys2Proof/Machine/Script.lean ====
section
/-! DEFINITION. The host agent: the primitive lines of a host script, the pseudo-lines and their expansions, and one
host step (`30_encoding.md` R110 to R112, `20_memory.md` R75). -/

namespace Sys2Proof.Machine

/-! ## The host step -/

/-- The word a read hands to the script: the data, or 0 on a bus error (R67). -/
def BusResp.word : BusResp → Word
  | .data v => v
  | .busError => 0
  | .none => 0
  | .written => 0

/-- The value of a local name, if an `rd` has read one into it (R110). -/
def State.localVal (s : State) (x : Nat) : Option Word := (s.locals.find? fun p => p.1 == x).map (·.2)

/-- `rd OFF -> x` leaves the value under the name `x` (R111). -/
def State.setLocal (s : State) (x : Nat) (v : Word) : State :=
  { s with locals := (x, v) :: s.locals.filter fun p => p.1 != x }

/-- The byte string a name stands for, if an `rdb` has read one into it (R112). -/
def State.stringVal (s : State) (x : Nat) : Option Bytes := (s.strings.find? fun p => p.1 == x).map (·.2)

/-- The end of an `rdb`: the first `n` bytes of the words it has read go to the name `x` (R75, R112). -/
def State.takeString (s : State) (x n : Nat) : State :=
  { s with
    strings := (x, (s.rdbWords.flatMap bytesOf).take n) :: s.strings.filter fun p => p.1 != x
    rdbWords := [] }

/-- One read of an `rdb`: the word of DOUT after those it has read (R75, R112). -/
def State.readNextWord (s : State) : State :=
  let r := s.busRead .w32 (BitVec.ofNat 14 (doutBase + 4 * s.rdbWords.length))
  { s with rdbWords := s.rdbWords ++ [r.word], resp := r }

/-- Continue at the next line, or at line `t`. -/
def State.nextLine (s : State) : State := { s with pos := s.pos + 1 }
def State.goto (s : State) (t : Nat) : State := { s with pos := t }

/-- A conditional branch of the script on `(x and MASK) = VAL`, taken when the test equals `want` (R111). -/
def branch (want : Bool) (x : Nat) (mask val : Word) (t : Nat) (s : State) : Out :=
  match s.localVal x with
  | none => .fault (.unreadLocal x)
  | some y => if (y &&& mask == val) = want then .next (s.goto t) else .next s.nextLine

/-- A step of the reads of an `rdb`: one word of DOUT while fewer than `ceil(n/4)` have been read, then the byte string
(R75, R112; log entry 22). -/
def readDout (n x : Nat) (s : State) : Out :=
  match s.localVal n with
  | none => .fault (.unreadLocal n)
  | some v =>
    if 4 * s.rdbWords.length < v.toNat then .next s.readNextWord else .next (s.takeString x v.toNat).nextLine

/-- The effect of one primitive line (R111, R112). -/
def hostLine (l : HostLine) (s : State) : Out :=
  match l with
  | .wr w off v => .next { (s.busWrite w off v).nextLine with resp := s.busWriteResp w off }
  | .rd w off x => .next { (s.setLocal x (s.busRead w off).word).nextLine with resp := s.busRead w off }
  | .jmp t => .next (s.goto t)
  | .beq x mask val t => branch true x mask val t s
  | .bne x mask val t => branch false x mask val t s
  | .halt => .next s
  | .rdDout n x => readDout n x s

/-- A host step while BUSY brings the completion step one nearer (R380). -/
def State.tick (s : State) : State := if s.st = .busy then { s with busyLeft := s.busyLeft - 1 } else s

/-- One host step: the line at the position counter; past the end of the script the host does nothing (R110). -/
def hostStep (s : State) : Out :=
  match s.script[s.pos]? with
  | some l => hostLine l s.tick
  | none => .next s.tick

/-! ## The script notation -/

/-- A source line of a host script: primitive lines and pseudo-lines, labels and local names as numbers (R110 to R112). -/
inductive ScriptLine where
  | label (l : Nat)
  | wr (off : Offset) (val : Word)
  | rd (off : Offset) (x : Nat)
  | jmp (l : Nat)
  | beq (x : Nat) (mask val : Word) (l : Nat)
  | bne (x : Nat) (mask val : Word) (l : Nat)
  | halt
  /-- `ldb NAME, hex`. -/
  | ldb (b : Buf) (bytes : Bytes)
  /-- `ldd NAME, digits`. R112 has decimal digits; a nibble above 9 goes on as the byte `0x0d` too (DESIGN CHOICE, log
  entry 8). -/
  | ldd (b : Buf) (digits : List Nibble)
  /-- `go MNEMONIC[, ARG=v]`. -/
  | go (i : Instr)
  /-- `wait -> s`. -/
  | wait (x : Nat)
  | ack
  | zeroize
  /-- `rdb -> (n, bytes)`: DOUT_LEN goes to the local name `n`, the result to the name `x` of a byte string. -/
  | rdb (n x : Nat)
  /-- `iferr s, L`. -/
  | iferr (x : Nat) (l : Nat)
deriving DecidableEq, Repr

/-- A byte string as bus words, the last padded on the right with zero bytes (R75). -/
def wordsOf (a : Bytes) : List Word :=
  (blocksOf 4 ((a.length + 3) / 4) a).map fun c => wordOf (c.getD 0 0) (c.getD 1 0) (c.getD 2 0) (c.getD 3 0)

/-- A 32-bit write line. Every offset of the notation lies in the window but in an `ldb` of more bytes than the window
has above the buffer (DIN, more than 0x3000): R60 has no bus access there and R112 sets no bound. The model takes the
offset modulo 0x4000, so such words go to the window's start (DESIGN CHOICE, log entry 29). -/
def wr32 (off : Nat) (v : Word) : HostLine := .wr .w32 (BitVec.ofNat 14 off) v

/-- A 32-bit read line, of a register of the window. -/
def rd32 (off : Nat) (x : Nat) : HostLine := .rd .w32 (BitVec.ofNat 14 off) x

/-- Consecutive word writes from an offset upward (R75). -/
def writeWords : Nat → List Word → List HostLine
  | _, [] => []
  | off, v :: r => wr32 off v :: writeWords (off + 4) r

/-- `ldb NAME, hex`: the words, then the length (R112, R75). For an `ldb` that leaves the window see `wr32`; a length is
written modulo 2^32 (DESIGN CHOICE, log entry 29). -/
def ldbLines (b : Buf) (a : Bytes) : List HostLine :=
  writeWords b.base (wordsOf a) ++ [wr32 b.lenOff (BitVec.ofNat 32 a.length)]

/-- `rdb`: the read of DOUT_LEN, then as many words of DOUT as it says (R112, R75). -/
def rdbLines (n x : Nat) : List HostLine := [rd32 0x050 n, .rdDout n x]

/-- The primitive lines of a source line that stands at line number `here`, with the labels resolved by `target` (R111, R112). -/
def ScriptLine.lines (target : Nat → Nat) (here : Nat) : ScriptLine → List HostLine
  | .label _ => []
  | .wr off v => [.wr .w32 off v]
  | .rd off x => [.rd .w32 off x]
  | .jmp l => [.jmp (target l)]
  | .beq x mask val l => [.beq x mask val (target l)]
  | .bne x mask val l => [.bne x mask val (target l)]
  | .halt => [.halt]
  | .ldb b a => ldbLines b a
  | .ldd b ds => ldbLines b (ds.map digitByte)
  | .go i => [wr32 0x00C (encode i), wr32 0x004 1]
  | .wait x => [rd32 0x008 x, .beq x 0x3 0x1 here]
  | .ack => [wr32 0x004 2]
  | .zeroize => [wr32 0x004 4]
  | .rdb n x => rdbLines n x
  | .iferr x l => [.beq x 0x3 0x3 (target l)]

/-- The line number of each label, and the number of primitive lines of the whole script. -/
def labelTable : Nat → List ScriptLine → List (Nat × Nat) × Nat
  | here, [] => ([], here)
  | here, l :: r =>
    let rest := labelTable (here + (l.lines (fun _ => 0) here).length) r
    match l with
    | .label n => ((n, here) :: rest.1, rest.2)
    | _ => rest

/-- The primitive lines of a script from line number `here` on. -/
def assembleFrom (target : Nat → Nat) : Nat → List ScriptLine → List HostLine
  | _, [] => []
  | here, l :: r => l.lines target here ++ assembleFrom target (here + (l.lines target here).length) r

/-- The assembler of this hardware: source lines to primitive lines (R110 to R112). A jump to a label that stands
nowhere ends the script, and of two lines with one label the first is meant: both are the model's choice, the notation
is silent (DESIGN CHOICE, log entry 8). -/
def assemble (src : List ScriptLine) : List HostLine :=
  let t := labelTable 0 src
  assembleFrom (fun l => ((t.1.find? fun p => p.1 == l).map (·.2)).getD t.2) 0 src

end Sys2Proof.Machine
end

