-- ==== Sys2Proof/Machine/Sequencer.lean ====
section
/-! DEFINITION. Which agent moves, and the core's own step: reading CMD, decoding it and completing the command
(`10_state.md` R20, R24, R29; `60_exceptions.md` R336; `70_reset_and_hazards.md` R370, R380). -/

namespace Sys2Proof.Machine

/-- The completion step: CMD is decoded first; a word of no row gives IllegalCommand and nothing else is looked at;
otherwise the command has its whole effect (R29, R96, R336). -/
def completionStep (s : State) : Out :=
  match decode s.cmd with
  | .ok i => exec i s
  | .error .illegalCommand => raise .illegalCommand s

/-- The random port does not answer at this step (R344, U15). -/
def State.portSilent (s : State) : Bool := s.rngSilent.headD s.rngDown

/-- The completion step of the running command would draw a random byte (R14, R45). -/
def State.completionDraws (s : State) : Bool :=
  match completionStep s with
  | .next t => t.rngPos != s.rngPos
  | .fault _ => false
  | .refused _ => false

/-- The running command waits for a random port that does not answer: it stays BUSY until the port answers, a ZEROIZE or
a reset (R344, U15; log entry 27). -/
def State.stalled (s : State) : Bool := s.portSilent && s.completionDraws

/-- It is the core's turn: STATE is BUSY, LATENCY is over, and the command does not wait for the random port (R20, R344,
R380). -/
def State.coreTurn (s : State) : Bool := s.st == .busy && s.busyLeft == 0 && !s.stalled

/-- One sample of the reset line and one of the random port taken off the inputs to come (R370, U15). -/
def State.sampled (s : State) : State := { s with resetIn := s.resetIn.tail, rngSilent := s.rngSilent.tail }

/-- One step of the machine: the reset line first (R370); else the core when its turn has come; else the host (R20, R69). -/
def agentStep (s : State) : Out :=
  if s.resetIn.headD false then .next s.sampled.coreReset
  else if s.coreTurn then completionStep s.sampled
  else hostStep s.sampled

/-- The command word `w` placed in CMD and started as by a START write, its completion step the very next step (R27
step 3, R380; log entry 1): the reset line is low and the random port answers at that step. -/
def State.armed (s : State) (w : Word) : State :=
  { s.started with
    cmd := w
    busyLeft := 0
    rngSilent := if s.portSilent then false :: s.rngSilent.tail else s.rngSilent
    resetIn := if s.resetIn.headD false then false :: s.resetIn.tail else s.resetIn }

end Sys2Proof.Machine
end

