-- ==== Sys2Proof/Machine/Step.lean ====
section
/-! DEFINITION. The step of the machine, and the placing of a command word where the next step reads it. -/

namespace Sys2Proof.Machine

/-- One step: reset, the core's completion step, or a host step (R20, R69, R370, R380). -/
def step (s : State) : Host.Outcome State Fault Refusal := agentStep s

/-- `s` with the command word stored in CMD and its START taken, so that the very next step completes it: the core
fetches nothing, it reads CMD (R24, R29; log entry 1). -/
def State.withFetchWord (s : State) (nbits w : Nat) : State := s.armed (BitVec.ofNat 32 (w % 2 ^ nbits))

end Sys2Proof.Machine
end

