-- ==== Sys2Proof/Machine/Text.lean ====
section
/-! DEFINITION. The text layer: hex and digit strings at the host boundary, before the first bus write and after the
last bus read of a call, and a whole call in text form (`48_text_layer.md`). It is no part of the core; a string is its
list of characters. -/

namespace Sys2Proof.Machine

/-- The kinds of a failed call in the taxonomy of R331: those of commands, and the two that belong to the text layer. -/
inductive CallError where
  /-- Raised by `unhex` in the host, before any bus access (R312). -/
  | invalidHexInput
  /-- AC.VERIFY ended in DONE with VFAIL = 1 (R332). -/
  | verificationFailure
  /-- The command ended in ERROR. -/
  | command (k : ErrKind)
deriving DecidableEq, Repr

/-- The code of a kind in the numbering of R331. -/
def CallError.code : CallError → BitVec 8
  | .invalidHexInput => 0x01
  | .verificationFailure => 0x07
  | .command k => k.code

/-- The kind's name (R319, R331). -/
def CallError.name : CallError → String
  | .invalidHexInput => "InvalidHexInput"
  | .verificationFailure => "VerificationFailure"
  | .command .invalidKeyLength => "InvalidKeyLength"
  | .command .invalidDataLength => "InvalidDataLength"
  | .command .invalidPinLength => "InvalidPinLength"
  | .command .componentLengthMismatch => "ComponentLengthMismatch"
  | .command .componentCountOutOfRange => "ComponentCountOutOfRange"
  | .command .counterOverflow => "CounterOverflow"
  | .command .invalidOperand => "InvalidOperand"
  | .command .illegalCommand => "IllegalCommand"

/-- Every kind a command can end with. -/
def ErrKind.all : List ErrKind :=
  [.invalidKeyLength, .invalidDataLength, .invalidPinLength, .componentLengthMismatch, .componentCountOutOfRange,
    .counterOverflow, .invalidOperand, .illegalCommand]

/-- The kind STATUS.ERR names, if it names one (R331). -/
def errKindOf (code : BitVec 8) : Option ErrKind := ErrKind.all.find? fun k => k.code == code

/-- A stripped character: space, line feed, carriage return, horizontal tab (R310). -/
def isBlank (c : Char) : Bool := c == ' ' || c == '\n' || c == '\r' || c == '\t'

/-- `strip(s)` (R310). -/
def strip (s : List Char) : List Char := s.filter fun c => !isBlank c

/-- `val(c)`, either case; none for a character that is no hex digit (R311). -/
def hexVal (c : Char) : Option Nibble :=
  let n := c.toNat
  if 0x30 ≤ n ∧ n ≤ 0x39 then some (BitVec.ofNat 4 (n - 0x30))
  else if 0x41 ≤ n ∧ n ≤ 0x46 then some (BitVec.ofNat 4 (n - 0x41 + 10))
  else if 0x61 ≤ n ∧ n ≤ 0x66 then some (BitVec.ofNat 4 (n - 0x61 + 10))
  else none

/-- The bytes of a stripped hex string: an odd length or a non-hex character is InvalidHexInput (R311). -/
def unhexPairs : List Char → Except CallError Bytes
  | [] => .ok []
  | [_] => .error .invalidHexInput
  | a :: b :: r =>
    match hexVal a, hexVal b, unhexPairs r with
    | some x, some y, .ok t => .ok ((x ++ y) :: t)
    | _, _, _ => .error .invalidHexInput

/-- `unhex(s)` (R311). -/
def unhex (s : List Char) : Except CallError Bytes := unhexPairs (strip s)

/-- An upper-case hex digit (R313). -/
def hexChar (n : Nibble) : Char :=
  if n.toNat < 10 then Char.ofNat (0x30 + n.toNat) else Char.ofNat (0x41 + n.toNat - 10)

/-- `hex(b)`: two characters per byte, high nibble first, upper case (R313). -/
def hex (b : Bytes) : List Char := (nibs b).map hexChar

/-- Comparison of hex text: of `unhex` of both sides as byte strings (R314). A side that is no hex text has no byte
string: the comparison is then the InvalidHexInput that `unhex` of it is (R311, R312), which R314 does not say (DEDUCED,
log entry 28). -/
def hexEqual (a b : List Char) : Except CallError Bool :=
  match unhex a, unhex b with
  | .ok x, .ok y => .ok (x == y)
  | .error e, _ => .error e
  | .ok _, .error e => .error e

/-- Consecutive word writes of a script from an offset upward (R75). -/
def loadWords : Nat → List Word → List ScriptLine
  | _, [] => []
  | off, v :: r => .wr (BitVec.ofNat 14 off) v :: loadWords (off + 4) r

/-- Loading a byte operand where DATA_MAX is `dataMax`: the first CAP bytes and the whole length, which the register
truncates to its width (R315). R315 leaves open whether the first CAP bytes or none are written, and says both that the
length is truncated and that the core refuses the command: a length of 256 or more (65536 for DIN) whose low bits
are a legal length is written as the rule says, and the core accepts it (DESIGN CHOICE, log entry 17). -/
def loadLines (dataMax : Nat) (b : Buf) (a : Bytes) : List ScriptLine :=
  if a.length ≤ b.cap dataMax then [.ldb b a]
  else loadWords b.base (wordsOf (a.take (b.cap dataMax))) ++
    [.wr (BitVec.ofNat 14 b.lenOff) (BitVec.ofNat 32 a.length)]

/-- The byte for a character of a PIN, PAN or PSN string: the low 8 bits of `c - 0x30` (R316). A character above 0xFF gives
0xFF: R316 says both "the low 8 bits" and "> 9 for every non-digit character", and the model keeps the second, so that no
character but `0` to `9` reads as a digit (DESIGN CHOICE, log entry 26). -/
def digitChar (c : Char) : Byte := if c.toNat ≤ 0xFF then BitVec.ofNat 8 c.toNat - 0x30 else 0xFF

/-- A PIN, PAN or PSN string as digit-buffer bytes, first character at index 0 (R316). -/
def digitBytes (s : List Char) : Bytes := s.map digitChar

/-- The ATC register for an ATC string: 1 to 4 hex digits after stripping, left-padded with `0` (R317). -/
def atcOf (s : List Char) : Except CallError (BitVec 16) :=
  let t := strip s
  if t.length = 0 ∨ 4 < t.length then .error .invalidHexInput
  else
    match unhexPairs (List.replicate (4 - t.length) '0' ++ t) with
    | .ok a => .ok (BitVec.ofNat 16 (int a))
    | .error e => .error e

/-- The text of a PIN that PIN.EXTRACT or PIN.DECRYPT returned: `0x30 + value`, or an upper-case hex digit (R319). -/
def pinText (a : Bytes) : List Char := a.map fun b => hexChar (digitOf b)

/-- The tagged result of a call: the output, or the kind, or nothing while no result stands (R332, R352). -/
def State.result (s : State) : Option (Except CallError Bytes) :=
  match s.st with
  | .idle => none
  | .busy => none
  | .done => some (if s.vfail then .error .verificationFailure else .ok s.output)
  | .error => (errKindOf s.err).map fun k => .error (.command k)

/-! ## A call in text form -/

/-- The operand buffers each command reads, by its rule (R41, R150, R255, R263 and the operands line of each rule). -/
def readsOf : Instr → List Buf
  | .desEcbEnc => [.key0, .din]
  | .desEcbDec => [.key0, .din]
  | .desCbcEnc => [.key0, .iv, .din]
  | .desCbcDec => [.key0, .iv, .din]
  | .desCfbEnc => [.key0, .iv, .din]
  | .desCfbDec => [.key0, .iv, .din]
  | .desOfbEnc => [.key0, .iv, .din]
  | .desOfbDec => [.key0, .iv, .din]
  | .desCtrEnc => [.key0, .iv, .din]
  | .desCtrDec => [.key0, .iv, .din]
  | .aesEcbEnc => [.key0, .din]
  | .aesEcbDec => [.key0, .din]
  | .aesCbcEnc => [.key0, .iv, .din]
  | .aesCbcDec => [.key0, .iv, .din]
  | .aesCfbEnc => [.key0, .iv, .din]
  | .aesCfbDec => [.key0, .iv, .din]
  | .aesOfbEnc => [.key0, .iv, .din]
  | .aesOfbDec => [.key0, .iv, .din]
  | .aesCtrEnc => [.key0, .iv, .din]
  | .aesCtrDec => [.key0, .iv, .din]
  | .macCbcDes => [.key0, .iv, .din]
  | .macCbcAes => [.key0, .iv, .din]
  | .macRetail => [.key0, .iv, .din]
  | .macCmac => [.key0, .din]
  | .cmacSubkeys => [.key0]
  | .kdUdk => [.key0, .pan, .psn]
  | .kdSkCommon => [.key0]
  | .kdSkVisa => [.key0]
  | .kdSkMc => [.key0]
  | .dukptIpek => [.key0, .ksn]
  | .dukptKeyset => [.key0, .ksn]
  | .ksnInc => [.ksn]
  | .acGenArqcCommon => [.key0, .pan, .psn, .un, .din]
  | .acGenArqcVisa => [.key0, .pan, .psn, .un, .din]
  | .acGenArqcMc => [.key0, .pan, .psn, .un, .din]
  | .acGenTcCommon => [.key0, .pan, .psn, .un, .din]
  | .acGenTcVisa => [.key0, .pan, .psn, .un, .din]
  | .acGenTcMc => [.key0, .pan, .psn, .un, .din]
  | .acGenAacCommon => [.key0, .pan, .psn, .un, .din]
  | .acGenAacVisa => [.key0, .pan, .psn, .un, .din]
  | .acGenAacMc => [.key0, .pan, .psn, .un, .din]
  | .acVerifyCommon => [.key0, .aux0, .pan, .psn, .un, .din]
  | .acVerifyVisa => [.key0, .aux0, .pan, .psn, .un, .din]
  | .acVerifyMc => [.key0, .aux0, .pan, .psn, .un, .din]
  | .arpcM1 => [.key0, .aux0, .aux1]
  | .arpcM2 => [.key0, .aux0, .aux1, .aux2]
  | .pinCreateIso0 => [.pin, .pan]
  | .pinCreateIso1 => [.pin]
  | .pinCreateIso2 => [.pin]
  | .pinCreateIso3 => [.pin, .pan]
  | .pinCreateIso4 => [.pin, .pan]
  | .pinExtractIso0 => [.aux0, .pan]
  | .pinExtractIso1 => [.aux0]
  | .pinExtractIso2 => [.aux0]
  | .pinExtractIso3 => [.aux0, .pan]
  | .pinExtractIso4 => [.aux0, .pan]
  | .pinDecryptIso0 => [.key0, .aux0, .pan]
  | .pinDecryptIso1 => [.key0, .aux0]
  | .pinDecryptIso2 => [.key0, .aux0]
  | .pinDecryptIso3 => [.key0, .aux0, .pan]
  | .pinDecryptIso4 => [.key0, .aux0, .pan]
  | .pinTranslate => [.key0, .key1, .aux0]
  | .keyGenDes _ => []
  | .keyGenAes _ => []
  | .keySplitDes _ => [.key0]
  | .keySplitAes _ => [.key0]
  | .keyCombineDes _ => [.din]
  | .keyCombineAes _ => [.din]
  | .keyKcvDes => [.key0]
  | .keyKcvAes => [.key0]
  | .parCheck => [.din]
  | .parFix => [.din]

/-- The commands that read the ATC register (R35). -/
def atcReaders : List Instr := [
  .kdSkCommon,
  .kdSkVisa,
  .kdSkMc,
  .acGenArqcCommon,
  .acGenArqcVisa,
  .acGenArqcMc,
  .acGenTcCommon,
  .acGenTcVisa,
  .acGenTcMc,
  .acGenAacCommon,
  .acGenAacVisa,
  .acGenAacMc,
  .acVerifyCommon,
  .acVerifyVisa,
  .acVerifyMc]

/-- The digit buffers, whose arguments are digit strings; the others take hex text (R38, R316). -/
def Buf.digits : Buf → Bool
  | .pan => true
  | .psn => true
  | .pin => true
  | _ => false

/-- A call of a BPT function in text form: the command, the texts of its buffer arguments, the text of its ATC (R320). A
buffer argument or an ATC that the call does not name is the empty text (log entry 16). R320 is silent on the text form
of KEY.COMBINE's components: the model's call has one DIN text, the hex of the records of R289, and no text for each
component (DESIGN CHOICE, log entry 30). -/
structure TextCall where
  command : Instr
  args : List (Buf × List Char)
  atc : Option (List Char)
deriving DecidableEq, Repr

/-- The bytes of an argument: the digits of a digit string, `unhex` of any other (R315, R316). -/
def argBytes (b : Buf) (text : List Char) : Except CallError Bytes :=
  if b.digits then .ok (digitBytes text) else unhex text

/-- Every argument converted, in order; the first that is no hex text ends the call (R312, R320). -/
def argValues : List (Buf × List Char) → Except CallError (List (Buf × Bytes))
  | [] => .ok []
  | (b, t) :: r =>
    match argBytes b t, argValues r with
    | .ok a, .ok vs => .ok ((b, a) :: vs)
    | .error e, _ => .error e
    | .ok _, .error e => .error e

/-- The ATC register for the call: the text it names, the empty text for a command that reads the ATC and is given none
(R35, R317). -/
def TextCall.atcValue (c : TextCall) : Except CallError (BitVec 16) :=
  match c.atc with
  | some t => atcOf t
  | none => if atcReaders.contains c.command then atcOf [] else .ok 0

/-- The loading of the buffers the command reads, and of the ATC register where it reads it (R35, R315, R320). Of two
arguments for one buffer the first is loaded; both are converted (DESIGN CHOICE, log entry 16). -/
def TextCall.loads (dataMax : Nat) (c : TextCall) (vs : List (Buf × Bytes)) (atc : BitVec 16) : List ScriptLine :=
  (readsOf c.command).flatMap (fun b => loadLines dataMax b (((vs.find? fun p => p.1 == b).map (·.2)).getD [])) ++
    if atcReaders.contains c.command then [.wr 0x014 (atc.setWidth 32)] else []

/-- One call in text form as a script: every argument converted first, any InvalidHexInput ending the call with no bus
access; then the loading of the buffers the command reads, `go`, `wait`, `rdb` on DONE, `ack` (R320). STATUS goes to the
local name 0, DOUT_LEN to 1, the bytes to the name 0. -/
def TextCall.script (dataMax : Nat) (c : TextCall) : Except CallError (List ScriptLine) :=
  match argValues c.args, c.atcValue with
  | .ok vs, .ok v => .ok (c.loads dataMax vs v ++ [.go c.command, .wait 0, .iferr 0 0, .rdb 1 0, .label 0, .ack])
  | .error e, _ => .error e
  | .ok _, .error e => .error e

/-- The commands whose result is a PIN (R319). -/
def pinResult : Instr → Bool
  | .pinExtractIso0 => true
  | .pinExtractIso1 => true
  | .pinExtractIso2 => true
  | .pinExtractIso3 => true
  | .pinExtractIso4 => true
  | .pinDecryptIso0 => true
  | .pinDecryptIso1 => true
  | .pinDecryptIso2 => true
  | .pinDecryptIso3 => true
  | .pinDecryptIso4 => true
  | _ => false

/-- The text of a result: a PIN's characters, `hex` of any other byte string (R313, R319). -/
def resultText (i : Instr) (a : Bytes) : List Char := if pinResult i then pinText a else hex a

/-- The result of a call whose script has ended, from the names it has read: the text on DONE, VerificationFailure on DONE
with VFAIL = 1, the kind STATUS.ERR names on ERROR (R319, R320, R332). -/
def TextCall.result (c : TextCall) (s : State) : Option (Except CallError (List Char)) :=
  match s.localVal 0 with
  | none => none
  | some w =>
    if w.extractLsb' 0 2 = SeqState.done.code then
      if w.getLsbD 2 then some (.error .verificationFailure)
      else (s.stringVal 0).map fun a => .ok (resultText c.command a)
    else if w.extractLsb' 0 2 = SeqState.error.code then
      (errKindOf (w.extractLsb' 8 8)).map fun k => .error (.command k)
    else none

end Sys2Proof.Machine
end

