-- ==== Sys2Proof/Safety.lean ====
section
/-! DEFINITION. The terms in which the claims about BPT-CORE are stated: what a completion leaves and what it keeps, the
invariant of the machine, and the rules' results as relations that do not mention the functions computing them. -/

namespace Sys2Proof.Machine

/-! ## What a step keeps -/

/-- The bytes of DOUT, by window offset (R36). -/
abbrev State.InDout (s : State) (a : Nat) : Prop := doutBase ≤ a ∧ a < doutBase + s.doutMax

/-- Everything the host loads is as before: CMD, IEN, ATC, every length register, and every byte of memory outside DOUT
(R30, R334); and the implementation is the same. -/
structure OperandsKept (s t : State) : Prop where
  cmd : t.cmd = s.cmd
  ie : t.ie = s.ie
  atc : t.atc = s.atc
  len : ∀ b : Buf, t.len b = s.len b
  mem : ∀ a : Nat, ¬ s.InDout a → t.mem.read a = s.mem.read a
  dataSize : t.dataSize = s.dataSize

/-- The host agent, LATENCY, the answering of the random port and the reset line are as before: the model's own fields. -/
structure HostKept (s t : State) : Prop where
  script : t.script = s.script
  pos : t.pos = s.pos
  locals : t.locals = s.locals
  rdbWords : t.rdbWords = s.rdbWords
  strings : t.strings = s.strings
  resp : t.resp = s.resp
  latencies : t.latencies = s.latencies
  busyLeft : t.busyLeft = s.busyLeft
  rngSilent : t.rngSilent = s.rngSilent
  rngDown : t.rngDown = s.rngDown
  resetIn : t.resetIn = s.resetIn

/-- Exactly `n` random bytes were drawn (R382). -/
structure Drew (s t : State) (n : Nat) : Prop where
  pos : t.rngPos = s.rngPos + n
  queue : t.rngQueue = s.rngQueue.drop n

/-- The whole architectural state of the core (R22) is as before, and the implementation is the same. -/
structure CoreKept (s t : State) : Prop where
  st : t.st = s.st
  vfail : t.vfail = s.vfail
  parok : t.parok = s.parok
  irqPending : t.irqPending = s.irqPending
  err : t.err = s.err
  cmd : t.cmd = s.cmd
  ie : t.ie = s.ie
  atc : t.atc = s.atc
  len : ∀ b : Buf, t.len b = s.len b
  doutLen : t.doutLen = s.doutLen
  mem : ∀ a : Nat, t.mem.read a = s.mem.read a
  dataSize : t.dataSize = s.dataSize

/-- STATE, ERR and the flags are as before, and DOUT with DOUT_LEN. -/
structure ResultKept (s t : State) : Prop where
  st : t.st = s.st
  vfail : t.vfail = s.vfail
  parok : t.parok = s.parok
  irqPending : t.irqPending = s.irqPending
  err : t.err = s.err
  doutLen : t.doutLen = s.doutLen

/-! ## What a completion leaves -/

/-- DOUT holds `v` with zeros behind it and DOUT_LEN its length (R36). -/
structure DoutIs (t : State) (v : Bytes) : Prop where
  len : t.doutLen.toNat = v.length
  bytes : ∀ k : Nat, k < t.doutMax → t.doutByte k = v.getD k 0

/-- `t` is `s` after `done(v)` with these flags and `n` draws (R334). -/
structure DoneWith (s t : State) (vfail parok : Bool) (v : Bytes) (n : Nat) : Prop where
  st : t.st = .done
  err : t.err = 0x00
  vfail : t.vfail = vfail
  parok : t.parok = parok
  irqPending : t.irqPending = true
  dout : DoutIs t v
  kept : OperandsKept s t
  host : HostKept s t
  drew : Drew s t n

/-- `t` is `s` after `raise` with this error code: no output, no draw (R335, R339). -/
structure ErrorWith (s t : State) (code : BitVec 8) : Prop where
  st : t.st = .error
  err : t.err = code
  vfail : t.vfail = false
  parok : t.parok = false
  irqPending : t.irqPending = true
  dout : DoutIs t []
  kept : OperandsKept s t
  host : HostKept s t
  drew : Drew s t 0

/-- The command ends in ERROR with this code (R331) and no other effect. -/
def EndsWith (i : Instr) (s : State) (code : BitVec 8) : Prop := ∃ t, exec i s = .next t ∧ ErrorWith s t code

/-- The reset values of R48 but for IEN. -/
structure CoreCleared (t : State) : Prop where
  st : t.st = .idle
  vfail : t.vfail = false
  parok : t.parok = false
  irqPending : t.irqPending = false
  err : t.err = 0x00
  cmd : t.cmd = 0x00000000
  atc : t.atc = 0x0000
  len : ∀ b : Buf, t.len b = 0
  doutLen : t.doutLen = 0
  mem : ∀ a : Nat, t.mem.read a = 0x00

/-- A command has started: BUSY, DOUT and DOUT_LEN zero, ERR and the flags clear, the operands as before (R27 step 3). -/
structure StartedFrom (s t : State) : Prop where
  st : t.st = .busy
  vfail : t.vfail = false
  parok : t.parok = false
  irqPending : t.irqPending = false
  err : t.err = 0x00
  dout : DoutIs t []
  kept : OperandsKept s t

/-- An ACK has acted: IDLE, ERR and the flags clear, everything else as before (R27 step 2). -/
structure AckedFrom (s t : State) : Prop where
  st : t.st = .idle
  vfail : t.vfail = false
  parok : t.parok = false
  irqPending : t.irqPending = false
  err : t.err = 0x00
  doutLen : t.doutLen = s.doutLen
  mem : ∀ a : Nat, t.mem.read a = s.mem.read a
  kept : OperandsKept s t

/-! ## The invariant -/

/-- The values STATUS.ERR can hold (R331). -/
def errCodes : List (BitVec 8) := [0x00, 0x02, 0x03, 0x04, 0x05, 0x06, 0x08, 0x09, 0x0A]

/-- What every reachable state satisfies. -/
structure Inv (s : State) : Prop where
  /-- Memory is in canonical form. -/
  wf : s.mem.wf = true
  /-- Only bytes that exist are listed (R30, R31, R36, R40). -/
  stored : ∀ c ∈ s.mem, s.storedOffset c.1 = true
  /-- The pending bit is 1 exactly in DONE and ERROR (R25, R340). -/
  pending : s.irqPending = true ↔ (s.st = .done ∨ s.st = .error)
  /-- ERR is not 0 exactly in ERROR (R352). -/
  error : s.err ≠ 0x00 ↔ s.st = .error
  /-- ERR holds a code of R331. -/
  codes : s.err ∈ errCodes
  /-- VFAIL and PAROK are 1 in DONE only (R25). -/
  flags : s.vfail = true ∨ s.parok = true → s.st = .done
  /-- No command writes both (R25). -/
  oneFlag : ¬ (s.vfail = true ∧ s.parok = true)
  /-- DOUT_LEN is at most DOUT_MAX (R334). -/
  fits : s.doutLen.toNat ≤ s.doutMax
  /-- Every byte of DOUT at or beyond DOUT_LEN is 0 (R36). -/
  tail : ∀ k : Nat, s.doutLen.toNat ≤ k → s.doutByte k = 0x00
  /-- There is output only in DONE, or in IDLE after the ACK of a DONE (R352). -/
  output : s.doutLen.toNat > 0 → s.st = .done ∨ s.st = .idle

/-! ## Operands and blocks -/

/-- The pair (ALG, key length) is a row of R93. -/
def LegalKey (alg : Alg) (n : Nat) : Prop :=
  (alg = .des ∧ (n = 8 ∨ n = 16 ∨ n = 24)) ∨ (alg = .aes ∧ (n = 16 ∨ n = 24 ∨ n = 32))

/-- Check 2 of R151 passes: IV_LEN is the block size, or the mode is ECB. -/
def LegalIv (s : State) (alg : Alg) (m : Mode) : Prop := m = .ecb ∨ s.len .iv = alg.block

/-- Check 3 of R151 passes: at most DATA_MAX bytes, whole blocks. -/
def LegalData (s : State) (alg : Alg) : Prop := s.len .din ≤ s.dataMax ∧ s.len .din % alg.block = 0

/-- All checks of R151 pass. -/
def CipherReady (s : State) (alg : Alg) (m : Mode) : Prop :=
  LegalKey alg (s.len .key0) ∧ LegalIv s alg m ∧ LegalData s alg

/-- Block `i`, counted from 0, of a string of `b`-byte blocks: the rules' `X_(i+1)`. -/
def blockAt (b : Nat) (v : Bytes) (i : Nat) : Bytes := slice v (b * i) (b * (i + 1))

/-- The digits of a buffer are legal for a command that reads them: the length within the capacity, no byte above 9
(R38, R201 step 2). -/
def LegalDigits (s : State) (b : Buf) : Prop :=
  s.len b ≤ s.cap b ∧ ∀ k : Nat, k < s.len b → (s.byte b k).toNat ≤ 9

/-! ## Results of the rules, as relations -/

/-- `m = RMAC(K, iv, d)`: the padded string `p`, the running values `H_0 .. H_(n-1)` (R180, R182). -/
def IsRetailMac (key iv d m : Bytes) : Prop :=
  ∃ (p : Bytes) (z n : Nat) (H : Nat → Bytes),
    p = d ++ zeros z ∧ (d = [] → z = 8) ∧ (d ≠ [] → z < 8) ∧ p.length = 8 * n ∧
    H 0 = iv ∧
    (∀ i : Nat, i + 1 < n → H (i + 1) = desE (slice key 0 8) (xorBytes (blockAt 8 p i) (H i))) ∧
    m = tdesE key (xorBytes (blockAt 8 p (n - 1)) (H (n - 1)))

/-- `y = dbl(x)` byte by byte: one bit to the left across the 16 bytes, 0x87 into the last byte when the bit shifted
out was 1 (R184). -/
def IsDouble (x y : Bytes) : Prop :=
  y.length = 16 ∧
  (∀ i : Nat, i < 15 → y.getD i 0 = x.getD i 0 <<< 1 ||| x.getD (i + 1) 0 >>> 7) ∧
  y.getD 15 0 = (x.getD 15 0 <<< 1) ^^^ (if (x.getD 0 0).getLsbD 7 then 0x87 else 0x00)

/-- `m` is the AES-CMAC of `d`: blocks `M_1 .. M_n`, running values `H_0 .. H_n` (R185, R187). -/
def IsCmac (key d m : Bytes) : Prop :=
  ∃ (k1 k2 last : Bytes) (n : Nat) (M H : Nat → Bytes),
    IsDouble (aesE key (zeros 16)) k1 ∧ IsDouble k1 k2 ∧
    n = max 1 ((d.length + 15) / 16) ∧
    (∀ i : Nat, i + 1 < n → M i = blockAt 16 d i) ∧
    last = d.drop (16 * (n - 1)) ∧
    (last.length = 16 → M (n - 1) = xorBytes last k1) ∧
    (last.length ≠ 16 → M (n - 1) = xorBytes (last ++ [0x80] ++ zeros (15 - last.length)) k2) ∧
    H 0 = zeros 16 ∧
    (∀ i : Nat, i < n → H (i + 1) = aesE key (xorBytes (M i) (H i))) ∧
    m = H n

/-- `u = udk(IMK, PAN, PSN)`: nibble `15 - k` of the datum is the digit `k` places from the right of PAN ‖ PSN, 0 where
there is none (R201). -/
def IsUdk (imk pan psn u : Bytes) : Prop :=
  ∃ y : Bytes, y.length = 8 ∧
    (∀ k : Nat, k < 16 → nib y (15 - k) =
      if k < (pan ++ psn).length then digitOf ((pan ++ psn).getD ((pan ++ psn).length - 1 - k) 0) else 0) ∧
    u = tdesE imk y ++ tdesE imk (xorBytes y [0xFF, 0xFF, 0xFF, 0xFF, 0xFF, 0xFF, 0xFF, 0xFF])

/-- The two bytes of the ATC, the high byte first: `be(2, ATC)` (R35, R74). -/
def atcBytes (atc : BitVec 16) : Bytes := [atc.extractLsb' 8 8, atc.extractLsb' 0 8]

/-- The six bytes of a 48-bit constant, first byte most significant. -/
def sixBytes (v : BitVec 48) : Bytes :=
  [v.extractLsb' 40 8, v.extractLsb' 32 8, v.extractLsb' 24 8, v.extractLsb' 16 8, v.extractLsb' 8 8, v.extractLsb' 0 8]

/-- The suffix pair of each METHOD (R202, R204, R205). -/
def suffixPair : Method → BitVec 48 × BitVec 48
  | .common => (0xF00000000000, 0x0F0000000000)
  | .visa => (0xF00000000000, 0x0F0000000000)
  | .mastercard => (Config.mcSuffixL, Config.mcSuffixR)

/-- `k = sk(U, atc, suffix(METHOD))` (R202). -/
def IsSessionKey (m : Method) (u : Bytes) (atc : BitVec 16) (k : Bytes) : Prop :=
  k = tdesE u (atcBytes atc ++ sixBytes (suffixPair m).1) ++ tdesE u (atcBytes atc ++ sixBytes (suffixPair m).2)

/-- The key-register mask and the variant masks (R207), byte by byte. -/
def krmBytes : Bytes :=
  [0xC0, 0xC0, 0xC0, 0xC0, 0x00, 0x00, 0x00, 0x00, 0xC0, 0xC0, 0xC0, 0xC0, 0x00, 0x00, 0x00, 0x00]
def pinMaskBytes : Bytes := zeros 7 ++ [0xFF] ++ zeros 7 ++ [0xFF]
def macMaskBytes : Bytes := zeros 6 ++ [0xFF] ++ zeros 7 ++ [0xFF] ++ zeros 1
def dataMaskBytes : Bytes := zeros 5 ++ [0xFF] ++ zeros 7 ++ [0xFF] ++ zeros 2

/-- The KSN with its low 21 bits zero, `base(ksn)` (R206). -/
def ksnCleared (ksn : Bytes) : Bytes := slice ksn 0 7 ++ [ksn.getD 7 0 &&& 0xE0, 0x00, 0x00]

/-- `k = ipek(BDK, ksn)` (R208). -/
def IsIpek (bdk ksn k : Bytes) : Prop :=
  k = tdesE bdk (slice (ksnCleared ksn) 0 8) ++ tdesE (xorBytes bdk krmBytes) (slice (ksnCleared ksn) 0 8)

/-- `left ‖ right = nrkg(key, r)`: the right half from the register as it is, the left from the masked one (R210). -/
def IsNrkg (key r k : Bytes) : Prop :=
  ∃ mk : Bytes, mk = xorBytes key krmBytes ∧
    k = xorBytes (desE (slice mk 0 8) (xorBytes r (slice mk 8 16))) (slice mk 8 16)
      ++ xorBytes (desE (slice key 0 8) (xorBytes r (slice key 8 16))) (slice key 8 16)

/-- `c = ctk(BDK, ksn)`: the running keys and registers from bit 20 of the counter down to bit 0, a step for each bit
that is set (R211). -/
def IsCurrentKey (bdk ksn c : Bytes) : Prop :=
  ∃ (K : Nat → Bytes) (R : Nat → Nat),
    IsIpek bdk ksn (K 21) ∧ R 21 = int (slice (ksnCleared ksn) 2 10) ∧
    (∀ i : Nat, i < 21 →
      if (int ksn % 2 ^ 21).testBit i then R i = R (i + 1) ||| 2 ^ i ∧ IsNrkg (K (i + 1)) (be 8 (R i)) (K i)
      else R i = R (i + 1) ∧ K i = K (i + 1)) ∧
    c = K 0

/-- The application cryptogram `ac` and session key `sk` of the operands, and the MAC input `inp` (R230 to R232). -/
def IsCryptogram (m : Method) (s : State) (sk inp ac : Bytes) : Prop :=
  ∃ u : Bytes, IsUdk (s.operand .key0) (s.operand .pan) (s.operand .psn) u ∧ IsSessionKey m u s.atc sk ∧
    inp = s.operand .din ++ atcBytes s.atc ++ s.operand .un ∧ IsRetailMac sk (zeros 8) inp ac

/-- The checks of AC.GEN pass (R232 steps 1 to 4). -/
def CardReady (s : State) : Prop :=
  s.len .key0 = 16 ∧ LegalDigits s .pan ∧ LegalDigits s .psn ∧ s.len .un ≤ 8 ∧ s.len .din ≤ s.dataMax

/-! ## PIN blocks -/

/-- Nibble `k` of the PAN field: four zeros, then the rightmost 12 digits without the check digit, 0 where there is none
(R252). -/
def panNibble (pan : Bytes) (k : Nat) : Nibble :=
  if 4 ≤ k ∧ 15 - k < pan.length - 1 then digitOf (pan.getD (pan.length - 2 - (15 - k)) 0) else 0

/-- The padding nibble number `j` of a format: F, or from the `j`-th draw, or A (R251, R256 to R260). -/
def padNibble (f : PinFormat) (s : State) (j : Nat) : Nibble :=
  match f with
  | .iso0 => 0xF
  | .iso1 => (s.rngAt j).extractLsb' 0 4
  | .iso2 => 0xF
  | .iso3 => BitVec.ofNat 4 (0xA + (s.rngAt j).toNat % 6)
  | .iso4 => 0xA

/-- The draws of PIN.CREATE by format (R261). -/
def pinDraws (f : PinFormat) (s : State) : Nat :=
  match f with
  | .iso0 => 0
  | .iso1 => 14 - s.len .pin
  | .iso2 => 0
  | .iso3 => 14 - s.len .pin
  | .iso4 => 0

/-- Nibble `k` of the clear block before any XOR (R250, R254). -/
def clearNibble (f : PinFormat) (s : State) (k : Nat) : Nibble :=
  if k = 0 then f.number
  else if k = 1 then BitVec.ofNat 4 (s.len .pin)
  else if k < 2 + s.len .pin then digitOf (s.byte .pin (k - 2))
  else padNibble f s (k - 2 - s.len .pin)

/-- What a nibble is XORed with: that of the PAN field where the format uses the PAN (R251, R254). -/
def maskNibble (f : PinFormat) (s : State) (k : Nat) : Nibble :=
  if f = .iso0 ∨ f = .iso3 ∨ f = .iso4 then panNibble (s.operand .pan) k else 0

/-- The PAN is legal where the format uses it (R253 check 3). -/
def LegalPan (f : PinFormat) (s : State) : Prop := f = .iso0 ∨ f = .iso3 ∨ f = .iso4 → LegalDigits s .pan

/-- `v = extract(f, b, PAN)` when the length nibble of the unmasked block is 4 to 12 (R262). -/
def IsExtractedPin (f : PinFormat) (s : State) (b v : Bytes) : Prop :=
  v.length = (nib b 1 ^^^ maskNibble f s 1).toNat ∧
    ∀ j : Nat, j < v.length → v.getD j 0 = (nib b (2 + j) ^^^ maskNibble f s (2 + j)).setWidth 8

/-- The length nibble is 4 to 12 (R262). The PAN field never changes nibble 1, but the rule reads it after the XOR. -/
def LegalPinNibble (f : PinFormat) (s : State) (b : Bytes) : Prop :=
  4 ≤ (nib b 1 ^^^ maskNibble f s 1).toNat ∧ (nib b 1 ^^^ maskNibble f s 1).toNat ≤ 12

/-! ## Key components -/

/-- `b` keeps bits 7 to 1 of `r` and has odd parity: `b = fixbyte(r)` (R280). -/
def IsFixed (r b : Byte) : Prop := b >>> 1 = r >>> 1 ∧ ones b % 2 = 1

/-- Component records one after another, each a length byte and the value (R289). -/
def recordsOf (vs : List Bytes) : Bytes := vs.flatMap fun v => BitVec.ofNat 8 v.length :: v

/-- DIN parses as `vs.length` component records with these values (R289). -/
def ParsesAs (s : State) (vs : List Bytes) : Prop :=
  (∀ v ∈ vs, v.length < 256) ∧ s.operand .din = recordsOf vs

/-- `k` is the bytewise XOR of the strings `vs`, all of length `n` (R290). -/
def IsXorOf (vs : List Bytes) (n : Nat) (k : Bytes) : Prop :=
  k.length = n ∧ ∀ j : Nat, j < n → k.getD j 0 = vs.foldl (fun a v => a ^^^ v.getD j 0) 0

/-- The components of a split of `key` into `n`: all but the last parity-corrected from the draws in order, the XOR of
all of them the key (R286). -/
def IsSplit (s : State) (key : Bytes) (n : Nat) (cs : List Bytes) : Prop :=
  cs.length = n ∧ (∀ c ∈ cs, c.length = key.length) ∧
  (∀ i j : Nat, i + 1 < n → j < key.length → IsFixed (s.rngAt (i * key.length + j)) ((cs.getD i []).getD j 0)) ∧
  IsXorOf cs key.length key

/-- The KeyShare record, field by field (R288). -/
def IsKeyShare (alg : Alg) (key : Bytes) (cs : List Bytes) (v : Bytes) : Prop :=
  v.length = 5 + key.length + cs.length * (key.length + 4) ∧
  slice v 0 2 = [BitVec.ofNat 8 cs.length, BitVec.ofNat 8 key.length] ∧
  slice v 2 (2 + key.length) = key ∧
  slice v (2 + key.length) (5 + key.length) = kcv alg key ∧
  ∀ i : Nat, i < cs.length → ∀ o : Nat, o = 5 + key.length + i * (key.length + 4) →
    slice v o (o + 1) = [BitVec.ofNat 8 (i + 1)] ∧
    slice v (o + 1) (o + 1 + key.length) = cs.getD i [] ∧
    slice v (o + 1 + key.length) (o + 4 + key.length) = kcv alg (cs.getD i [])

/-! ## Tables about all commands -/

/-- The random bytes a command draws when it ends in DONE (R45, R261, R297). -/
def drawCount (i : Instr) (s : State) : Nat :=
  match i with
  | .pinCreateIso1 => 14 - s.len .pin
  | .pinCreateIso3 => 14 - s.len .pin
  | .keyGenDes c => 8 * c
  | .keyGenAes c => 8 * c
  | .keySplitDes n => (n - 1) * s.len .key0
  | .keySplitAes n => (n - 1) * s.len .key0
  | _ => 0

/-- Which error kinds each command can end with: the table of R337. -/
def kindsOf : Instr → List ErrKind
  | .desEcbEnc => [.invalidKeyLength, .invalidDataLength]
  | .desEcbDec => [.invalidKeyLength, .invalidDataLength]
  | .desCbcEnc => [.invalidKeyLength, .invalidDataLength, .invalidOperand]
  | .desCbcDec => [.invalidKeyLength, .invalidDataLength, .invalidOperand]
  | .desCfbEnc => [.invalidKeyLength, .invalidDataLength, .invalidOperand]
  | .desCfbDec => [.invalidKeyLength, .invalidDataLength, .invalidOperand]
  | .desOfbEnc => [.invalidKeyLength, .invalidDataLength, .invalidOperand]
  | .desOfbDec => [.invalidKeyLength, .invalidDataLength, .invalidOperand]
  | .desCtrEnc => [.invalidKeyLength, .invalidDataLength, .invalidOperand]
  | .desCtrDec => [.invalidKeyLength, .invalidDataLength, .invalidOperand]
  | .aesEcbEnc => [.invalidKeyLength, .invalidDataLength]
  | .aesEcbDec => [.invalidKeyLength, .invalidDataLength]
  | .aesCbcEnc => [.invalidKeyLength, .invalidDataLength, .invalidOperand]
  | .aesCbcDec => [.invalidKeyLength, .invalidDataLength, .invalidOperand]
  | .aesCfbEnc => [.invalidKeyLength, .invalidDataLength, .invalidOperand]
  | .aesCfbDec => [.invalidKeyLength, .invalidDataLength, .invalidOperand]
  | .aesOfbEnc => [.invalidKeyLength, .invalidDataLength, .invalidOperand]
  | .aesOfbDec => [.invalidKeyLength, .invalidDataLength, .invalidOperand]
  | .aesCtrEnc => [.invalidKeyLength, .invalidDataLength, .invalidOperand]
  | .aesCtrDec => [.invalidKeyLength, .invalidDataLength, .invalidOperand]
  | .macCbcDes => [.invalidKeyLength, .invalidDataLength, .invalidOperand]
  | .macCbcAes => [.invalidKeyLength, .invalidDataLength, .invalidOperand]
  | .macRetail => [.invalidKeyLength, .invalidDataLength, .invalidOperand]
  | .macCmac => [.invalidKeyLength, .invalidDataLength]
  | .cmacSubkeys => [.invalidKeyLength]
  | .kdUdk => [.invalidKeyLength, .invalidOperand]
  | .kdSkCommon => [.invalidKeyLength]
  | .kdSkVisa => [.invalidKeyLength]
  | .kdSkMc => [.invalidKeyLength]
  | .dukptIpek => [.invalidKeyLength, .invalidOperand]
  | .dukptKeyset => [.invalidKeyLength, .invalidOperand]
  | .ksnInc => [.counterOverflow, .invalidOperand]
  | .acGenArqcCommon => [.invalidKeyLength, .invalidDataLength, .invalidOperand]
  | .acGenArqcVisa => [.invalidKeyLength, .invalidDataLength, .invalidOperand]
  | .acGenArqcMc => [.invalidKeyLength, .invalidDataLength, .invalidOperand]
  | .acGenTcCommon => [.invalidKeyLength, .invalidDataLength, .invalidOperand]
  | .acGenTcVisa => [.invalidKeyLength, .invalidDataLength, .invalidOperand]
  | .acGenTcMc => [.invalidKeyLength, .invalidDataLength, .invalidOperand]
  | .acGenAacCommon => [.invalidKeyLength, .invalidDataLength, .invalidOperand]
  | .acGenAacVisa => [.invalidKeyLength, .invalidDataLength, .invalidOperand]
  | .acGenAacMc => [.invalidKeyLength, .invalidDataLength, .invalidOperand]
  | .acVerifyCommon => [.invalidKeyLength, .invalidDataLength, .invalidOperand]
  | .acVerifyVisa => [.invalidKeyLength, .invalidDataLength, .invalidOperand]
  | .acVerifyMc => [.invalidKeyLength, .invalidDataLength, .invalidOperand]
  | .arpcM1 => [.invalidKeyLength, .invalidOperand]
  | .arpcM2 => [.invalidKeyLength, .invalidOperand]
  | .pinCreateIso0 => [.invalidPinLength, .invalidOperand]
  | .pinCreateIso1 => [.invalidPinLength, .invalidOperand]
  | .pinCreateIso2 => [.invalidPinLength, .invalidOperand]
  | .pinCreateIso3 => [.invalidPinLength, .invalidOperand]
  | .pinCreateIso4 => [.invalidPinLength, .invalidOperand]
  | .pinExtractIso0 => [.invalidPinLength, .invalidOperand]
  | .pinExtractIso1 => [.invalidPinLength, .invalidOperand]
  | .pinExtractIso2 => [.invalidPinLength, .invalidOperand]
  | .pinExtractIso3 => [.invalidPinLength, .invalidOperand]
  | .pinExtractIso4 => [.invalidPinLength, .invalidOperand]
  | .pinDecryptIso0 => [.invalidKeyLength, .invalidPinLength, .invalidOperand]
  | .pinDecryptIso1 => [.invalidKeyLength, .invalidPinLength, .invalidOperand]
  | .pinDecryptIso2 => [.invalidKeyLength, .invalidPinLength, .invalidOperand]
  | .pinDecryptIso3 => [.invalidKeyLength, .invalidPinLength, .invalidOperand]
  | .pinDecryptIso4 => [.invalidKeyLength, .invalidPinLength, .invalidOperand]
  | .pinTranslate => [.invalidKeyLength, .invalidOperand]
  | .keyGenDes _ => [.invalidKeyLength]
  | .keyGenAes _ => [.invalidKeyLength]
  | .keySplitDes _ => [.invalidKeyLength, .componentCountOutOfRange]
  | .keySplitAes _ => [.invalidKeyLength, .componentCountOutOfRange]
  | .keyCombineDes _ => [.invalidKeyLength, .invalidDataLength, .componentLengthMismatch, .componentCountOutOfRange]
  | .keyCombineAes _ => [.invalidKeyLength, .invalidDataLength, .componentLengthMismatch, .componentCountOutOfRange]
  | .keyKcvDes => [.invalidKeyLength]
  | .keyKcvAes => [.invalidKeyLength]
  | .parCheck => [.invalidDataLength]
  | .parFix => [.invalidDataLength]

/-! ## Tables of command families -/

/-- The twenty cipher commands with their family and mode (R97). -/
def cipherTable : List (Instr × Alg × Mode) := [
  (.desEcbEnc, .des, .ecb),
  (.desEcbDec, .des, .ecb),
  (.desCbcEnc, .des, .cbc),
  (.desCbcDec, .des, .cbc),
  (.desCfbEnc, .des, .cfb),
  (.desCfbDec, .des, .cfb),
  (.desOfbEnc, .des, .ofb),
  (.desOfbDec, .des, .ofb),
  (.desCtrEnc, .des, .ctr),
  (.desCtrDec, .des, .ctr),
  (.aesEcbEnc, .aes, .ecb),
  (.aesEcbDec, .aes, .ecb),
  (.aesCbcEnc, .aes, .cbc),
  (.aesCbcDec, .aes, .cbc),
  (.aesCfbEnc, .aes, .cfb),
  (.aesCfbDec, .aes, .cfb),
  (.aesOfbEnc, .aes, .ofb),
  (.aesOfbDec, .aes, .ofb),
  (.aesCtrEnc, .aes, .ctr),
  (.aesCtrDec, .aes, .ctr)]

/-- The ten pairs of an encryption command and its decryption command (R97). -/
def cipherPairs : List (Instr × Instr × Alg × Mode) := [
  (.desEcbEnc, .desEcbDec, .des, .ecb),
  (.desCbcEnc, .desCbcDec, .des, .cbc),
  (.desCfbEnc, .desCfbDec, .des, .cfb),
  (.desOfbEnc, .desOfbDec, .des, .ofb),
  (.desCtrEnc, .desCtrDec, .des, .ctr),
  (.aesEcbEnc, .aesEcbDec, .aes, .ecb),
  (.aesCbcEnc, .aesCbcDec, .aes, .cbc),
  (.aesCfbEnc, .aesCfbDec, .aes, .cfb),
  (.aesOfbEnc, .aesOfbDec, .aes, .ofb),
  (.aesCtrEnc, .aesCtrDec, .aes, .ctr)]

/-- The nine AC.GEN commands with byte 0 of their record, their method and their word (R97, R233). -/
def acGenTable : List (Instr × Byte × Method × Word) := [
  (.acGenArqcCommon, 0x00, .common, 0x00000030),
  (.acGenArqcVisa, 0x00, .visa, 0x00100030),
  (.acGenArqcMc, 0x00, .mastercard, 0x00200030),
  (.acGenTcCommon, 0x01, .common, 0x00400030),
  (.acGenTcVisa, 0x01, .visa, 0x00500030),
  (.acGenTcMc, 0x01, .mastercard, 0x00600030),
  (.acGenAacCommon, 0x02, .common, 0x00800030),
  (.acGenAacVisa, 0x02, .visa, 0x00900030),
  (.acGenAacMc, 0x02, .mastercard, 0x00A00030)]

/-- The three AC.VERIFY commands with their method and word (R97). -/
def acVerifyTable : List (Instr × Method × Word) := [
  (.acVerifyCommon, .common, 0x00000031),
  (.acVerifyVisa, .visa, 0x00100031),
  (.acVerifyMc, .mastercard, 0x00200031)]

/-- The three KD.SK commands with their method and word (R97). -/
def sessionKeyTable : List (Instr × Method × Word) := [
  (.kdSkCommon, .common, 0x00000021),
  (.kdSkVisa, .visa, 0x00100021),
  (.kdSkMc, .mastercard, 0x00200021)]

/-- The PIN.CREATE, PIN.EXTRACT and PIN.DECRYPT commands of each format (R97, R251). -/
def pinTable : List (PinFormat × Instr × Instr × Instr) := [
  (.iso0, .pinCreateIso0, .pinExtractIso0, .pinDecryptIso0),
  (.iso1, .pinCreateIso1, .pinExtractIso1, .pinDecryptIso1),
  (.iso2, .pinCreateIso2, .pinExtractIso2, .pinDecryptIso2),
  (.iso3, .pinCreateIso3, .pinExtractIso3, .pinDecryptIso3),
  (.iso4, .pinCreateIso4, .pinExtractIso4, .pinDecryptIso4)]

/-- The operand buffers where DATA_MAX is `dataMax`: window, CAP, offset of the length register (R31). -/
def bufferTable (dataMax : Nat) : List (Buf × Nat × Nat × Nat) := [
  (.key0, 0x100, 32, 0x020),
  (.key1, 0x120, 32, 0x024),
  (.iv, 0x140, 16, 0x028),
  (.ksn, 0x150, 10, 0x04C),
  (.un, 0x160, 8, 0x03C),
  (.aux0, 0x168, 8, 0x040),
  (.aux1, 0x170, 8, 0x044),
  (.aux2, 0x178, 8, 0x048),
  (.pan, 0x180, 32, 0x030),
  (.psn, 0x1A0, 4, 0x034),
  (.pin, 0x1B0, 16, 0x038),
  (.din, 0x1000, dataMax, 0x02C)]

/-! ## Illegal command words -/

/-- The fields an opcode uses besides OPC, as limits: a field value is legal below its limit (R92, R94, R95). -/
structure FieldLimits where
  dir : Nat := 1
  mode : Nat := 1
  alg : Nat := 1
  arg : Nat := 1
  method : Nat := 1
  ctype : Nat := 1

/-- The opcode map of R92 with the legal field values of R91, R94 and R95; none for an OPC it does not list. -/
def opcodeLimits (opc : Nat) : Option FieldLimits :=
  if opc = 0x01 then some { dir := 2, mode := 5, alg := 2 }
  else if opc = 0x10 then some { alg := 2 }
  else if opc = 0x11 ∨ opc = 0x12 ∨ opc = 0x13 ∨ opc = 0x20 then some {}
  else if opc = 0x21 then some { method := 3 }
  else if opc = 0x22 ∨ opc = 0x23 ∨ opc = 0x24 then some {}
  else if opc = 0x30 then some { method := 3, ctype := 3 }
  else if opc = 0x31 then some { method := 3 }
  else if opc = 0x32 ∨ opc = 0x33 then some {}
  else if opc = 0x40 ∨ opc = 0x41 ∨ opc = 0x42 then some { arg := 5 }
  else if opc = 0x43 then some {}
  else if opc = 0x50 ∨ opc = 0x51 ∨ opc = 0x52 then some { alg := 2, arg := 16 }
  else if opc = 0x53 then some { alg := 2 }
  else if opc = 0x54 ∨ opc = 0x55 then some {}
  else none

/-- A field of the CMD word (R91). -/
def cmdField (w : Word) (lo len : Nat) : Nat := (w.extractLsb' lo len).toNat

/-- The word is legal by its fields: a listed OPC, zero must-be-zero bits, every field below its limit (R91, R92, R96). -/
def LegalByFields (w : Word) : Prop :=
  cmdField w 13 3 = 0 ∧ cmdField w 24 8 = 0 ∧
  ∃ l : FieldLimits, opcodeLimits (cmdField w 0 8) = some l ∧
    cmdField w 8 1 < l.dir ∧ cmdField w 9 3 < l.mode ∧ cmdField w 12 1 < l.alg ∧ cmdField w 16 4 < l.arg ∧
    cmdField w 20 2 < l.method ∧ cmdField w 22 2 < l.ctype

/-! ## The bus -/

/-- The mapped offsets of the window where DATA_MAX is `dataMax` and DOUT_MAX 64 more (R9, R65, R66). -/
def Mapped (dataMax a : Nat) : Prop :=
  a < 0x018 ∨ (0x020 ≤ a ∧ a < 0x054) ∨ (0x100 ≤ a ∧ a < 0x15C) ∨ (0x160 ≤ a ∧ a < 0x1A4) ∨ (0x1B0 ≤ a ∧ a < 0x1C0) ∨
    (0x1000 ≤ a ∧ a < 0x1000 + dataMax) ∨ (0x2000 ≤ a ∧ a < 0x2000 + (dataMax + 64))

/-- It is the host's turn and its next line is `l`: reset low, no completion step due (R20, R69, R110). -/
def HostTurn (s : State) (l : HostLine) : Prop :=
  s.resetIn.headD false = false ∧ s.coreTurn = false ∧ s.script[s.pos]? = some l

/-- It is the core's turn: BUSY, LATENCY over, reset low, no wait for the random port (R20, R344, R380). -/
def CoreTurn (s : State) : Prop :=
  s.resetIn.headD false = false ∧ s.st = .busy ∧ s.busyLeft = 0 ∧ s.stalled = false

end Sys2Proof.Machine
end

