-- ==== Sys2Proof/Certificates/Slice0/Obligations.lean ====
section
/-! DEFINITION. The statements about BPT-CORE for the provers. Each docstring names the rule of the spec it formalises; a
clause that is the model's own choice says so and names its log entry. -/

open Sys2Proof Sys2Proof.Machine

/-! ## Reset, CTRL and the bus -/

/-- R48: the state after reset, every piece at its tabled value; ID is the constant. -/
def Obligations.ResetStateHoldsTheTabledValues : Prop :=
  CoreCleared State.reset ∧ State.reset.ie = false ∧ State.reset.busRead .w32 0x000 = .data 0x42505407 ∧
  State.reset.busRead .w32 0x010 = .data 0x00000000 ∧ decode State.reset.cmd = .error .illegalCommand

/-- R370: with the reset line high the next step leaves every piece of the core's state at its reset value, whatever
the core was doing, with `irq` low and no random byte drawn. -/
def Obligations.ResetLineClearsTheCore : Prop :=
  ∀ s : State, s.resetIn.head? = some true →
    ∃ t, step s = .next t ∧ CoreCleared t ∧ t.ie = false ∧ t.irq = false ∧ t.dataSize = s.dataSize ∧ Drew s t 0

/-- R373: a CTRL write with ZEROIZE = 1 in any state, BUSY included, clears everything but IEN; `irq` goes low; nothing is
drawn. -/
def Obligations.ZeroizeKeepsOnlyIen : Prop :=
  ∀ (s : State) (v : Word), v.getLsbD 2 = true → ∀ t : State, t = s.busWrite .w32 0x004 v →
    CoreCleared t ∧ t.ie = s.ie ∧ t.irq = false ∧ t.dataSize = s.dataSize ∧ Drew s t 0

/-- R27: a write of CTRL acts in the fixed order ZEROIZE, ACK, START; bits 31 to 3 are ignored; a read returns 0. -/
def Obligations.CtrlWriteActsInItsFixedOrder : Prop :=
  (∀ s : State, s.busRead .w32 0x004 = .data 0x00000000) ∧
  ∀ (s : State) (v : Word) (t : State), t = s.busWrite .w32 0x004 v →
    (v.getLsbD 2 = true → CoreCleared t ∧ t.ie = s.ie) ∧
    (v.getLsbD 2 = false → s.st = .busy → t = s) ∧
    (v.getLsbD 2 = false → s.st ≠ .busy → v.getLsbD 0 = true → StartedFrom s t) ∧
    (v.getLsbD 2 = false → v.getLsbD 0 = false → v.getLsbD 1 = true → s.st = .done ∨ s.st = .error → AckedFrom s t) ∧
    (v.getLsbD 2 = false → v.getLsbD 0 = false → v.getLsbD 1 = true → s.st = .idle → t = s) ∧
    (v.getLsbD 2 = false → v.getLsbD 0 = false → v.getLsbD 1 = false → t = s)

/-- R23: STATE changes only by the reset line, by the core's completion step, or by a CTRL write of the host that is
ZEROIZE, START or ACK as the table says. -/
def Obligations.StateChangesOnlyByTheListedEvents : Prop :=
  ∀ s t : State, step s = .next t → t.st ≠ s.st →
    (s.resetIn.headD false = true ∧ t.st = .idle) ∨
    (CoreTurn s ∧ (t.st = .done ∨ t.st = .error)) ∨
    ∃ v : Word, HostTurn s (.wr .w32 0x004 v) ∧
      ((v.getLsbD 2 = true ∧ t.st = .idle) ∨
       (v.getLsbD 2 = false ∧ v.getLsbD 0 = true ∧ s.st ≠ .busy ∧ t.st = .busy) ∨
       (v.getLsbD 2 = false ∧ v.getLsbD 0 = false ∧ v.getLsbD 1 = true ∧ (s.st = .done ∨ s.st = .error) ∧
         t.st = .idle))

/-- R376: while BUSY every write but a CTRL write with ZEROIZE = 1 changes nothing and is answered without a bus error;
reads are served, DOUT_LEN and DOUT reading 0. -/
def Obligations.WritesWhileBusyAreIgnored : Prop :=
  ∀ s : State, s.st = .busy →
    (∀ (w : AccessWidth) (off : Offset) (v : Word), (off = 0x004 → v.getLsbD 2 = false) → s.busWrite w off v = s) ∧
    (∀ off : Offset, off.toNat % 4 = 0 → Mapped s.dataMax off.toNat → s.busWriteResp .w32 off = .written) ∧
    (∀ v : Word, v.getLsbD 2 = true → CoreCleared (s.busWrite .w32 0x004 v)) ∧
    (∃ r : Word, s.busRead .w32 0x008 = .data r ∧ r.extractLsb' 0 2 = 1) ∧
    s.busRead .w32 0x050 = .data 0x00000000 ∧
    (∀ off : Offset, off.toNat % 4 = 0 → 0x2000 ≤ off.toNat → off.toNat < 0x2000 + (s.dataMax + 64) →
      s.busRead .w32 off = .data 0x00000000) ∧
    (∀ off : Offset, off ≠ 0x008 → off ≠ 0x050 → off.toNat < 0x2000 →
      s.busRead .w32 off = ({ s with st := .idle } : State).busRead .w32 off)

/-- R28: the fields of a STATUS read in every state, reserved bits 0; a write is ignored. R49: in a state of the
invariant that is BUSY the word is 1. -/
def Obligations.StatusReadReportsEveryField : Prop :=
  (∀ s : State, ∃ r : Word, s.busRead .w32 0x008 = .data r ∧
    r.extractLsb' 0 2 = s.st.code ∧ r.getLsbD 2 = s.vfail ∧ r.getLsbD 3 = s.parok ∧ r.getLsbD 4 = s.irqPending ∧
    r.extractLsb' 5 3 = 0 ∧ r.extractLsb' 8 8 = s.err ∧ r.extractLsb' 16 16 = 0) ∧
  SeqState.idle.code = 0 ∧ SeqState.busy.code = 1 ∧ SeqState.done.code = 2 ∧ SeqState.error.code = 3 ∧
  (∀ (s : State) (v : Word), s.busWrite .w32 0x008 v = s) ∧
  ∀ s : State, Inv s → s.st = .busy → s.busRead .w32 0x008 = .data 0x00000001

/-- R64, R66, R67: an access is answered with a bus error exactly when it is not a 32-bit access at a mapped multiple of
4; then the read data is 0 and the core is as before, also in the host step that makes the access. The response in
`resp` is the model's representation (log entry 7). -/
def Obligations.BadAccessesAreBusErrors : Prop :=
  ∀ (s : State) (w : AccessWidth) (off : Offset),
    (s.busRead w off = .busError ↔ ¬ (w = .w32 ∧ off.toNat % 4 = 0 ∧ Mapped s.dataMax off.toNat)) ∧
    (s.busWriteResp w off = .busError ↔ ¬ (w = .w32 ∧ off.toNat % 4 = 0 ∧ Mapped s.dataMax off.toNat)) ∧
    (¬ (w = .w32 ∧ off.toNat % 4 = 0 ∧ Mapped s.dataMax off.toNat) →
      (∀ v : Word, s.busWrite w off v = s) ∧
      (∀ v : Word, HostTurn s (.wr w off v) → ∃ t, step s = .next t ∧ CoreKept s t ∧ t.resp = .busError) ∧
      (∀ x : Nat, HostTurn s (.rd w off x) →
        ∃ t, step s = .next t ∧ CoreKept s t ∧ t.resp = .busError ∧ t.localVal x = some 0x00000000))

/-- R61: a bus word is big-endian over buffer bytes, for a read and for a write of each buffer window of R31, and for a
read of DOUT; a write changes nothing else. The three secret windows read 0 (R37), the KSN's two missing bytes read 0
(R40), DOUT reads 0 while BUSY (R376). -/
def Obligations.BufferWordsAreBigEndian : Prop :=
  (∀ (s : State) (k : Nat), k % 4 = 0 → k < s.dataMax + 64 →
    ∃ r : Word, s.busRead .w32 (BitVec.ofNat 14 (0x2000 + k)) = .data r ∧
      ∀ j : Nat, j < 4 → r.extractLsb' (24 - 8 * j) 8 = if s.st = .busy then 0x00 else s.mem.read (0x2000 + k + j)) ∧
  ∀ (s : State) (b : Buf) (win cap len k : Nat), (b, win, cap, len) ∈ bufferTable s.dataMax → k % 4 = 0 → k < cap →
    (b ≠ .key0 → b ≠ .key1 → b ≠ .pin →
      ∃ r : Word, s.busRead .w32 (BitVec.ofNat 14 (win + k)) = .data r ∧
        ∀ j : Nat, j < 4 → r.extractLsb' (24 - 8 * j) 8 = if k + j < cap then s.mem.read (win + k + j) else 0x00) ∧
    (b = .key0 ∨ b = .key1 ∨ b = .pin → s.busRead .w32 (BitVec.ofNat 14 (win + k)) = .data 0x00000000) ∧
    ∀ v : Word, s.st ≠ .busy → ∀ t : State, t = s.busWrite .w32 (BitVec.ofNat 14 (win + k)) v →
      (∀ j : Nat, j < 4 → k + j < cap → t.mem.read (win + k + j) = v.extractLsb' (24 - 8 * j) 8) ∧
      (∀ a : Nat, ¬ (win + k ≤ a ∧ a < win + k + 4 ∧ a < win + cap) → t.mem.read a = s.mem.read a) ∧
      ResultKept s t ∧ t.cmd = s.cmd ∧ t.ie = s.ie ∧ t.atc = s.atc ∧ t.dataSize = s.dataSize ∧
      ∀ c : Buf, t.len c = s.len c

/-- R40: bytes 10 and 11 of the KSN window are not stored and read 0, 0x15C is unmapped, and every command that reads the
KSN refuses a KSN_LEN other than 10 (with KEY0 of 16 bytes, where it has a key, since the key is looked at first). -/
def Obligations.KsnWindowHasTenBytes : Prop :=
  ∀ (s : State) (v : Word) (hi lo : BitVec 16),
    (∃ r : Word, s.busRead .w32 0x158 = .data r ∧ r.extractLsb' 0 16 = 0) ∧
    s.busWrite .w32 0x158 (hi ++ lo) = s.busWrite .w32 0x158 (hi ++ (0 : BitVec 16)) ∧
    s.busRead .w32 0x15C = .busError ∧ s.busWrite .w32 0x15C v = s ∧
    (s.len .ksn ≠ 10 → EndsWith .ksnInc s 0x09) ∧
    (s.len .ksn ≠ 10 → s.len .key0 = 16 → EndsWith .dukptIpek s 0x09 ∧ EndsWith .dukptKeyset s 0x09)

/-- R37: a read of any word of the KEY0, KEY1 or PIN window returns 0 in every state; their length registers read as they
are; a host step that reads leaves the core as it was. -/
def Obligations.SecretWindowsReadZero : Prop :=
  (∀ (s : State) (off : Offset), off.toNat % 4 = 0 →
    (0x100 ≤ off.toNat ∧ off.toNat < 0x140) ∨ (0x1B0 ≤ off.toNat ∧ off.toNat < 0x1C0) →
    s.busRead .w32 off = .data 0x00000000) ∧
  (∀ s : State, s.busRead .w32 0x020 = .data (BitVec.ofNat 32 (s.len .key0)) ∧
    s.busRead .w32 0x024 = .data (BitVec.ofNat 32 (s.len .key1)) ∧
    s.busRead .w32 0x038 = .data (BitVec.ofNat 32 (s.len .pin))) ∧
  ∀ (s : State) (w : AccessWidth) (off : Offset) (x : Nat), HostTurn s (.rd w off x) →
    ∃ t, step s = .next t ∧ CoreKept s t ∧ Drew s t 0

/-- R29, R32, R33, R35: outside BUSY a write of CMD stores 32 bits, of IEN bit 0, of ATC 16 bits, of a length register its
8 or 16 bits; the rest reads 0; nothing else changes. -/
def Obligations.RegisterWritesKeepTheirBits : Prop :=
  ∀ (s : State) (v : Word), s.st ≠ .busy →
    (s.busWrite .w32 0x00C v = { s with cmd := v } ∧ ({ s with cmd := v } : State).busRead .w32 0x00C = .data v) ∧
    (∀ t : State, t = s.busWrite .w32 0x010 v → t = { s with ie := v.getLsbD 0 } ∧
      t.busRead .w32 0x010 = .data (v &&& 0x00000001)) ∧
    (∀ t : State, t = s.busWrite .w32 0x014 v → t.atc = v.extractLsb' 0 16 ∧ t = { s with atc := t.atc } ∧
      t.busRead .w32 0x014 = .data (v &&& 0x0000FFFF)) ∧
    ∀ (b : Buf) (win cap off : Nat), (b, win, cap, off) ∈ bufferTable s.dataMax →
      ∀ t : State, t = s.busWrite .w32 (BitVec.ofNat 14 off) v →
        t.len b = v.toNat % (if b = .din then 65536 else 256) ∧
        t.busRead .w32 (BitVec.ofNat 14 off) = .data (BitVec.ofNat 32 (t.len b)) ∧
        (∀ c : Buf, c ≠ b → t.len c = s.len c) ∧ t.mem = s.mem ∧ ResultKept s t ∧ t.cmd = s.cmd ∧ t.ie = s.ie ∧
        t.atc = s.atc

/-- R340: `irq` is IE and the pending bit; every completion sets the bit and leaves IEN; ACK, START, ZEROIZE and reset
clear it; and no step sets it but a completion step. -/
def Obligations.OnlyCompletionSetsTheInterrupt : Prop :=
  (∀ s : State, s.irq = (s.ie && s.irqPending)) ∧
  (∀ (i : Instr) (s t : State), exec i s = .next t → t.irqPending = true ∧ t.ie = s.ie) ∧
  (∀ s t : State, CoreTurn s → step s = .next t → t.irqPending = true ∧ t.ie = s.ie) ∧
  (∀ (s : State) (v : Word), s.st ≠ .busy → (v.getLsbD 0 = true ∨ v.getLsbD 1 = true ∧ s.st ≠ .idle) →
    (s.busWrite .w32 0x004 v).irqPending = false) ∧
  (∀ (s : State) (v : Word), v.getLsbD 2 = true → (s.busWrite .w32 0x004 v).irqPending = false) ∧
  (∀ s t : State, s.resetIn.headD false = true → step s = .next t → t.irqPending = false) ∧
  ∀ s t : State, step s = .next t → s.irqPending = false → t.irqPending = true → CoreTurn s

/-! ## Decoding, and the step around a command -/

/-- R20, R29: in the core's turn the step is `exec` of the command CMD decodes to, at the state with one sample of the
reset line taken off (the core as before); a word of no row ends with IllegalCommand; in the host's turn it is the
line at the position counter. `withFetchWord` puts a word where the next step completes it (log entry 1). R75, R112: the
reads of an `rdb` are words of DOUT in order while fewer than DOUT_LEN bytes have been read, then the byte string, and
leave the core as it was (its form is the model's, log entry 22). -/
def Obligations.StepRunsTheDecodedCommand : Prop :=
  (∀ (s : State) (i : Instr), CoreTurn s → decode s.cmd = .ok i → step s = exec i s.sampled) ∧
  (∀ s : State, CoreTurn s → decode s.cmd = .error .illegalCommand →
    ∃ t, step s = .next t ∧ ErrorWith s.sampled t 0x0A) ∧
  (∀ (s : State) (l : HostLine), HostTurn s l → step s = hostLine l s.sampled.tick) ∧
  (∀ s : State, CoreKept s s.sampled ∧ CoreKept s s.sampled.tick) ∧
  (∀ (s : State) (n x : Nat) (v : Word), HostTurn s (.rdDout n x) → s.localVal n = some v →
    ∃ t, step s = .next t ∧ CoreKept s t ∧ Drew s t 0 ∧
      (4 * s.rdbWords.length < v.toNat → t.pos = s.pos ∧ t.rdbWords =
        s.rdbWords ++ [(s.busRead .w32 (BitVec.ofNat 14 (0x2000 + 4 * s.rdbWords.length))).word]) ∧
      (v.toNat ≤ 4 * s.rdbWords.length → t.pos = s.pos + 1 ∧ t.rdbWords = [] ∧
        t.stringVal x = some ((s.rdbWords.flatMap bytesOf).take v.toNat))) ∧
  ∀ (s : State) (w : Word) (t : State), t = s.withFetchWord 32 w.toNat →
    CoreTurn t ∧ t.cmd = w ∧ ∀ i : Instr, decode w = .ok i → step t = exec i t.sampled

/-- R96: a word is a command exactly when its fields are legal by R91 to R95; every other word completes with
IllegalCommand and no other effect. -/
def Obligations.IllegalWordsEndWithIllegalCommand : Prop :=
  (∀ w : Word, LegalByFields w → ∃ i : Instr, decode w = .ok i) ∧
  (∀ w : Word, ¬ LegalByFields w → decode w = .error .illegalCommand) ∧
  ∀ s : State, CoreTurn s → ¬ LegalByFields s.cmd → ∃ t, step s = .next t ∧ ErrorWith s.sampled t 0x0A

/-- R97, R99: decoding the word of a well-formed command gives the command back, with every ARG. -/
def Obligations.DecodeUndoesEncode : Prop :=
  ∀ i : Instr, i.wellFormed = true → decode (encode i) = .ok i

/-- R99: a word that matches a row decodes to the row's command with ARG = CMD[19:16], one that matches none is
rejected; no two rows match one word; what decodes is well-formed and encodes back to the word. -/
def Obligations.DecoderFollowsTheTable : Prop :=
  opcodeTable.length = 72 ∧
  (∀ (w : Word) (r : Row), r ∈ opcodeTable → w &&& r.mask = r.pattern →
    decode w = .ok (r.command (w.extractLsb' 16 4).toNat)) ∧
  (∀ w : Word, (∀ r ∈ opcodeTable, w &&& r.mask ≠ r.pattern) → decode w = .error .illegalCommand) ∧
  opcodeTable.Pairwise (fun r q => ∀ w : Word, ¬ (w &&& r.mask = r.pattern ∧ w &&& q.mask = q.pattern)) ∧
  ∀ (w : Word) (i : Instr), decode w = .ok i → i.wellFormed = true ∧ encode i = w

/-- R97: one written-out word of each family decodes to its command. -/
def Obligations.DecodeReadsSampleWords : Prop :=
  decode 0x00001301 = .ok .aesCbcDec ∧ decode 0x00000011 = .ok .macRetail ∧ decode 0x00200021 = .ok .kdSkMc ∧
  decode 0x00900030 = .ok .acGenAacVisa ∧ decode 0x00030042 = .ok .pinDecryptIso3 ∧
  decode 0x00071051 = .ok (.keySplitAes 7) ∧ decode 0x00000054 = .ok .parCheck

/-! ## All commands -/

/-- R25, R30: a completion writes nothing the host loads; IRQ becomes 1; only AC.VERIFY can leave VFAIL = 1, only
PAR.CHECK PAROK = 1, and neither in ERROR. -/
def Obligations.CommandsWriteOnlyTheirOutputs : Prop :=
  ∀ (i : Instr) (s t : State), exec i s = .next t →
    OperandsKept s t ∧ HostKept s t ∧ t.irqPending = true ∧
    (t.vfail = true → t.st = .done ∧ (i = .acVerifyCommon ∨ i = .acVerifyVisa ∨ i = .acVerifyMc)) ∧
    (t.parok = true → t.st = .done ∧ i = .parCheck)

/-- R339, R344: every command, on every state, ends in DONE with its whole effect or in ERROR with no effect but the
error's. -/
def Obligations.CommandsCompleteAllOrNothing : Prop :=
  ∀ (i : Instr) (s : State), ∃ t, exec i s = .next t ∧
    ((∃ (vfail parok : Bool) (v : Bytes) (n : Nat), DoneWith s t vfail parok v n) ∨
      ∃ code : BitVec 8, code ≠ 0x00 ∧ code ∈ errCodes ∧ ErrorWith s t code)

/-- R261, R297: the random bytes a command draws: 14 - PIN_LEN (2 to 10) for PIN.CREATE.ISO1 and ISO3, 8c for KEY.GEN,
(n-1) * KEY0_LEN for KEY.SPLIT, none for any other command, and none in ERROR. R344, U15: a command whose LATENCY is over
waits exactly when the random port is silent and it would draw; it then stays BUSY, with nothing drawn, through every
step but a reset or a ZEROIZE of the host (how the port's silence is given is the model's, log entry 27). -/
def Obligations.DrawCountsFollowTheRules : Prop :=
  ∀ (i : Instr) (s t : State), exec i s = .next t →
    (t.st = .done → Drew s t (drawCount i s)) ∧ (t.st = .error → Drew s t 0) ∧
    (t.st = .done → i = .pinCreateIso1 ∨ i = .pinCreateIso3 → 2 ≤ drawCount i s ∧ drawCount i s ≤ 10) ∧
    (decode s.cmd = .ok i → (s.stalled = true ↔ s.portSilent = true ∧ t.st = .done ∧ 0 < drawCount i s)) ∧
    (s.stalled = true → s.st = .busy → s.resetIn.headD false = false → ∀ u : State, step s = .next u →
      Drew s u 0 ∧ (u.st = .busy ∨ ∃ v : Word, v.getLsbD 2 = true ∧ HostTurn s (.wr .w32 0x004 v) ∧ CoreCleared u))

/-- R337: a command ends only with the error kinds its row of the table marks. -/
def Obligations.ErrorKindsFollowTheTable : Prop :=
  ∀ (i : Instr) (s t : State), exec i s = .next t → t.st = .error → ∃ k ∈ kindsOf i, t.err = k.code

/-- R15, R39, R333: the result of a command depends on the bytes below the length registers of the buffers it reads, on
ATC where it reads ATC, and on the bytes it draws: on nothing else but the implementation's DATA_MAX. -/
def Obligations.OnlyTheOperandsReadMatter : Prop :=
  ∀ (i : Instr) (s s' t t' : State),
    (∀ b ∈ readsOf i, s.len b = s'.len b ∧ ∀ k : Nat, k < s.len b → k < s.cap b → s.byte b k = s'.byte b k) →
    s.dataSize = s'.dataSize →
    (i ∈ atcReaders → s.atc = s'.atc) →
    (∀ k : Nat, k < drawCount i s → s.rngAt k = s'.rngAt k) →
    exec i s = .next t → exec i s' = .next t' →
    t.st = t'.st ∧ t.err = t'.err ∧ t.vfail = t'.vfail ∧ t.parok = t'.parok ∧ t.doutLen = t'.doutLen ∧
    ∀ k : Nat, k < s.doutMax → t.doutByte k = t'.doutByte k

/-! ## Block functions -/

/-- R120: each block function is total on the legal lengths, gives a block, and `D` and `E` under one key undo each
other: DES, 3DES with two and three keys, AES with 128, 192 and 256 bits. -/
def Obligations.BlockFunctionsInvert : Prop :=
  ∀ (alg : Alg) (key x : Bytes), LegalKey alg key.length → x.length = alg.block →
    (blockE alg key x).length = alg.block ∧ (blockD alg key x).length = alg.block ∧
    blockD alg key (blockE alg key x) = x ∧ blockE alg key (blockD alg key x) = x

/-- R121, R129 to R131: the key length selects DES or 3DES; 3DES is encrypt, decrypt, encrypt; a 16-byte key is
K1‖K2‖K1; with K1 = K2 it collapses to single DES. -/
def Obligations.TripleDesPipeline : Prop :=
  ∀ k1 k2 k3 x : Bytes, k1.length = 8 → k2.length = 8 → k3.length = 8 → x.length = 8 →
    blockE .des k1 x = desE k1 x ∧ blockD .des k1 x = desD k1 x ∧
    blockE .des (k1 ++ k2 ++ k3) x = desE k3 (desD k2 (desE k1 x)) ∧
    blockD .des (k1 ++ k2 ++ k3) x = desD k1 (desE k2 (desD k3 x)) ∧
    blockE .des (k1 ++ k2) x = blockE .des (k1 ++ k2 ++ k1) x ∧
    blockD .des (k1 ++ k2) x = blockD .des (k1 ++ k2 ++ k1) x ∧
    tdesE (k1 ++ k1) x = desE k1 x ∧ tdesD (k1 ++ k1) x = desD k1 x

/-! ## Cipher modes -/

/-- R152, R153: ECB encrypts and decrypts block by block; empty data gives empty output (R163). -/
def Obligations.EcbTransformsEachBlock : Prop :=
  ∀ (s : State) (alg : Alg) (enc dec : Instr),
    (alg = .des ∧ enc = .desEcbEnc ∧ dec = .desEcbDec) ∨ (alg = .aes ∧ enc = .aesEcbEnc ∧ dec = .aesEcbDec) →
    CipherReady s alg .ecb →
    (∃ t v, exec enc s = .next t ∧ DoneWith s t false false v 0 ∧ v.length = s.len .din ∧
      ∀ i : Nat, alg.block * (i + 1) ≤ s.len .din →
        blockAt alg.block v i = blockE alg (s.operand .key0) (blockAt alg.block (s.operand .din) i)) ∧
    (∃ t v, exec dec s = .next t ∧ DoneWith s t false false v 0 ∧ v.length = s.len .din ∧
      ∀ i : Nat, alg.block * (i + 1) ≤ s.len .din →
        blockAt alg.block v i = blockD alg (s.operand .key0) (blockAt alg.block (s.operand .din) i))

/-- R154, R155: CBC; encryption chains on the output block before, decryption on the input block before, the IV first. -/
def Obligations.CbcChainsBlocks : Prop :=
  ∀ (s : State) (alg : Alg) (enc dec : Instr),
    (alg = .des ∧ enc = .desCbcEnc ∧ dec = .desCbcDec) ∨ (alg = .aes ∧ enc = .aesCbcEnc ∧ dec = .aesCbcDec) →
    CipherReady s alg .cbc →
    (∃ t v, exec enc s = .next t ∧ DoneWith s t false false v 0 ∧ v.length = s.len .din ∧
      ∀ i : Nat, alg.block * (i + 1) ≤ s.len .din →
        blockAt alg.block v i = blockE alg (s.operand .key0) (xorBytes (blockAt alg.block (s.operand .din) i)
          (if i = 0 then s.operand .iv else blockAt alg.block v (i - 1)))) ∧
    (∃ t v, exec dec s = .next t ∧ DoneWith s t false false v 0 ∧ v.length = s.len .din ∧
      ∀ i : Nat, alg.block * (i + 1) ≤ s.len .din →
        blockAt alg.block v i = xorBytes (blockD alg (s.operand .key0) (blockAt alg.block (s.operand .din) i))
          (if i = 0 then s.operand .iv else blockAt alg.block (s.operand .din) (i - 1)))

/-- R156, R157: CFB with whole-block feedback, the block function `E` in both directions. -/
def Obligations.CfbFeedsBackWholeBlocks : Prop :=
  ∀ (s : State) (alg : Alg) (enc dec : Instr),
    (alg = .des ∧ enc = .desCfbEnc ∧ dec = .desCfbDec) ∨ (alg = .aes ∧ enc = .aesCfbEnc ∧ dec = .aesCfbDec) →
    CipherReady s alg .cfb →
    (∃ t v, exec enc s = .next t ∧ DoneWith s t false false v 0 ∧ v.length = s.len .din ∧
      ∀ i : Nat, alg.block * (i + 1) ≤ s.len .din →
        blockAt alg.block v i = xorBytes (blockAt alg.block (s.operand .din) i) (blockE alg (s.operand .key0)
          (if i = 0 then s.operand .iv else blockAt alg.block v (i - 1)))) ∧
    (∃ t v, exec dec s = .next t ∧ DoneWith s t false false v 0 ∧ v.length = s.len .din ∧
      ∀ i : Nat, alg.block * (i + 1) ≤ s.len .din →
        blockAt alg.block v i = xorBytes (blockAt alg.block (s.operand .din) i) (blockE alg (s.operand .key0)
          (if i = 0 then s.operand .iv else blockAt alg.block (s.operand .din) (i - 1))))

/-- R159, R160: OFB; the key stream `O` starts at the IV and does not depend on the data; both directions compute the
same. -/
def Obligations.OfbStreamIgnoresTheData : Prop :=
  ∀ (s : State) (alg : Alg) (c : Instr),
    (alg = .des ∧ (c = .desOfbEnc ∨ c = .desOfbDec)) ∨ (alg = .aes ∧ (c = .aesOfbEnc ∨ c = .aesOfbDec)) →
    CipherReady s alg .ofb →
    ∃ (t : State) (v : Bytes) (O : Nat → Bytes), exec c s = .next t ∧ DoneWith s t false false v 0 ∧
      v.length = s.len .din ∧ O 0 = s.operand .iv ∧ (∀ i : Nat, O (i + 1) = blockE alg (s.operand .key0) (O i)) ∧
      ∀ i : Nat, alg.block * (i + 1) ≤ s.len .din →
        blockAt alg.block v i = xorBytes (blockAt alg.block (s.operand .din) i) (O (i + 1))

/-- R158, R161, R162: CTR; the counter block starts at the IV and counts up as one big-endian integer that wraps; both
directions compute the same. -/
def Obligations.CtrCountsBigEndianBlocks : Prop :=
  ∀ (s : State) (alg : Alg) (c : Instr),
    (alg = .des ∧ (c = .desCtrEnc ∨ c = .desCtrDec)) ∨ (alg = .aes ∧ (c = .aesCtrEnc ∨ c = .aesCtrDec)) →
    CipherReady s alg .ctr →
    ∃ (t : State) (v : Bytes) (C : Nat → Bytes), exec c s = .next t ∧ DoneWith s t false false v 0 ∧
      v.length = s.len .din ∧ C 0 = s.operand .iv ∧
      (∀ i : Nat, (C (i + 1)).length = alg.block ∧ int (C (i + 1)) = (int (C i) + 1) % 2 ^ (8 * alg.block)) ∧
      ∀ i : Nat, alg.block * (i + 1) ≤ s.len .din →
        blockAt alg.block v i =
          xorBytes (blockAt alg.block (s.operand .din) i) (blockE alg (s.operand .key0) (C i))

/-- R151: the three checks of the twenty cipher commands in their order; ECB does not look at the IV. -/
def Obligations.CipherChecksInOrder : Prop :=
  ∀ (c : Instr) (alg : Alg) (m : Mode), (c, alg, m) ∈ cipherTable → ∀ s : State,
    (¬ LegalKey alg (s.len .key0) → EndsWith c s 0x02) ∧
    (LegalKey alg (s.len .key0) → ¬ LegalIv s alg m → EndsWith c s 0x09) ∧
    (LegalKey alg (s.len .key0) → LegalIv s alg m → ¬ LegalData s alg → EndsWith c s 0x03) ∧
    (CipherReady s alg m → ∃ t, exec c s = .next t ∧ t.st = .done)

/-- R164: in every mode and family the decryption command on the output of the encryption command, with the same key and
IV and on a core of the same DATA_MAX, returns the data, and the other way round. -/
def Obligations.CipherRoundTripReturnsTheData : Prop :=
  ∀ (enc dec : Instr) (alg : Alg) (m : Mode), (enc, dec, alg, m) ∈ cipherPairs →
    ∀ (c d : Instr), (c = enc ∧ d = dec) ∨ (c = dec ∧ d = enc) →
      ∀ s s' t : State, CipherReady s alg m → exec c s = .next t → s'.dataSize = s.dataSize →
        s'.operand .key0 = s.operand .key0 → s'.operand .iv = s.operand .iv → s'.operand .din = t.output →
        ∃ t', exec d s' = .next t' ∧ t'.st = .done ∧ t'.output = s.operand .din

/-! ## MAC -/

/-- R181: MAC.CBC gives the last block of the CBC chain, the last block of what CBC encryption gives; its checks in
order; empty data is refused. -/
def Obligations.MacCbcIsTheLastCbcBlock : Prop :=
  ∀ (s : State) (alg : Alg) (c e : Instr) (w : Word),
    (alg = .des ∧ c = .macCbcDes ∧ e = .desCbcEnc ∧ w = 0x00000010) ∨
      (alg = .aes ∧ c = .macCbcAes ∧ e = .aesCbcEnc ∧ w = 0x00001010) →
    encode c = w ∧
    (¬ LegalKey alg (s.len .key0) → EndsWith c s 0x02) ∧
    (LegalKey alg (s.len .key0) → s.len .iv ≠ alg.block → EndsWith c s 0x09) ∧
    (LegalKey alg (s.len .key0) → s.len .iv = alg.block → ¬ LegalData s alg ∨ s.len .din = 0 → EndsWith c s 0x03) ∧
    (CipherReady s alg .cbc → s.len .din ≠ 0 →
      ∃ (t t' : State) (v : Bytes) (H : Nat → Bytes), exec c s = .next t ∧ DoneWith s t false false v 0 ∧
        v.length = alg.block ∧ H 0 = s.operand .iv ∧
        (∀ i : Nat, alg.block * (i + 1) ≤ s.len .din →
          H (i + 1) = blockE alg (s.operand .key0) (xorBytes (blockAt alg.block (s.operand .din) i) (H i))) ∧
        v = H (s.len .din / alg.block) ∧
        exec e s = .next t' ∧ v = t'.output.drop (s.len .din - alg.block))

/-- R182, R183: MAC.RETAIL is the Retail MAC of any data up to DATA_MAX, the zero IV for IV_LEN = 0; its checks in order. -/
def Obligations.MacRetailMixesSingleAndTripleDes : Prop :=
  ∀ s : State,
    encode .macRetail = 0x00000011 ∧
    (s.len .key0 ≠ 16 → EndsWith .macRetail s 0x02) ∧
    (s.len .key0 = 16 → s.len .iv ≠ 0 → s.len .iv ≠ 8 → EndsWith .macRetail s 0x09) ∧
    (s.len .key0 = 16 → s.len .iv = 0 ∨ s.len .iv = 8 → s.len .din > s.dataMax → EndsWith .macRetail s 0x03) ∧
    (s.len .key0 = 16 → s.len .iv = 0 ∨ s.len .iv = 8 → s.len .din ≤ s.dataMax →
      ∃ t m, exec .macRetail s = .next t ∧ DoneWith s t false false m 0 ∧ m.length = 8 ∧
        IsRetailMac (s.operand .key0) (if s.len .iv = 0 then zeros 8 else s.operand .iv) (s.operand .din) m)

/-- R187: MAC.CMAC is AES-CMAC with a zero IV of any data up to DATA_MAX, for the three AES key lengths. -/
def Obligations.MacCmacFollowsItsRule : Prop :=
  ∀ s : State,
    encode .macCmac = 0x00000012 ∧
    (¬ LegalKey .aes (s.len .key0) → EndsWith .macCmac s 0x02) ∧
    (LegalKey .aes (s.len .key0) → s.len .din > s.dataMax → EndsWith .macCmac s 0x03) ∧
    (LegalKey .aes (s.len .key0) → s.len .din ≤ s.dataMax →
      ∃ t m, exec .macCmac s = .next t ∧ DoneWith s t false false m 0 ∧ m.length = 16 ∧
        IsCmac (s.operand .key0) (s.operand .din) m)

/-- R184, R186: CMAC.SUBKEYS gives K1 and K2, each the doubling of the one before, byte by byte and as integers. -/
def Obligations.CmacSubkeysAreDoublings : Prop :=
  (∀ x : Bytes, x.length = 16 → IsDouble x (dbl x) ∧
    int (dbl x) = (2 * int x % 2 ^ 128) ^^^ (if 2 ^ 127 ≤ int x then 0x87 else 0)) ∧
  ∀ s : State,
    encode .cmacSubkeys = 0x00000013 ∧
    (¬ LegalKey .aes (s.len .key0) → EndsWith .cmacSubkeys s 0x02) ∧
    (LegalKey .aes (s.len .key0) →
      ∃ t k1 k2, exec .cmacSubkeys s = .next t ∧ DoneWith s t false false (k1 ++ k2) 0 ∧
        k1 = dbl (aesE (s.operand .key0) (zeros 16)) ∧ k2 = dbl k1 ∧ k1.length = 16 ∧ k2.length = 16)

/-! ## Key derivation -/

/-- R201: KD.UDK, its datum the last 16 digits of PAN ‖ PSN padded on the left with 0; its checks in order. -/
def Obligations.UdkEncryptsTheDigitDatum : Prop :=
  ∀ s : State,
    encode .kdUdk = 0x00000020 ∧
    (s.len .key0 ≠ 16 → EndsWith .kdUdk s 0x02) ∧
    (s.len .key0 = 16 → ¬ (LegalDigits s .pan ∧ LegalDigits s .psn) → EndsWith .kdUdk s 0x09) ∧
    (s.len .key0 = 16 → LegalDigits s .pan → LegalDigits s .psn →
      ∃ t u, exec .kdUdk s = .next t ∧ DoneWith s t false false u 0 ∧ u.length = 16 ∧
        IsUdk (s.operand .key0) (s.operand .pan) (s.operand .psn) u)

/-- R203 to R205: the three session-key commands; VISA is COMMON, MASTERCARD has the open suffix pair (log entry 4: the
statement holds for every value of it). -/
def Obligations.SessionKeysFollowTheirMethod : Prop :=
  ∀ (c : Instr) (m : Method) (w : Word), (c, m, w) ∈ sessionKeyTable → ∀ s : State,
    encode c = w ∧
    (s.len .key0 ≠ 16 → EndsWith c s 0x02) ∧
    (s.len .key0 = 16 → ∃ t k, exec c s = .next t ∧ DoneWith s t false false k 0 ∧ k.length = 16 ∧
      IsSessionKey m (s.operand .key0) s.atc k)

/-- R209: DUKPT.IPEK from the KSN with its counter cleared; its checks in order. -/
def Obligations.DukptIpekClearsTheCounter : Prop :=
  ∀ s : State,
    encode .dukptIpek = 0x00000022 ∧
    (s.len .key0 ≠ 16 → EndsWith .dukptIpek s 0x02) ∧
    (s.len .key0 = 16 → s.len .ksn ≠ 10 → EndsWith .dukptIpek s 0x09) ∧
    (s.len .key0 = 16 → s.len .ksn = 10 →
      ∃ t k, exec .dukptIpek s = .next t ∧ DoneWith s t false false k 0 ∧ k.length = 16 ∧
        IsIpek (s.operand .key0) (s.operand .ksn) k)

/-- R211, R212, R214: DUKPT.KEYSET gives IPEK, KSN, the current key of the most-significant-first scan, and its three
variants. -/
def Obligations.DukptKeysetScansTheCounter : Prop :=
  ∀ s : State,
    encode .dukptKeyset = 0x00000023 ∧
    (s.len .key0 ≠ 16 → EndsWith .dukptKeyset s 0x02) ∧
    (s.len .key0 = 16 → s.len .ksn ≠ 10 → EndsWith .dukptKeyset s 0x09) ∧
    (s.len .key0 = 16 → s.len .ksn = 10 →
      ∃ t ik c x, exec .dukptKeyset s = .next t ∧
        IsIpek (s.operand .key0) (s.operand .ksn) ik ∧ IsCurrentKey (s.operand .key0) (s.operand .ksn) c ∧
        x = xorBytes c dataMaskBytes ∧ ik.length = 16 ∧ c.length = 16 ∧
        DoneWith s t false false (ik ++ s.operand .ksn ++ c ++ xorBytes c pinMaskBytes ++ xorBytes c macMaskBytes ++
          (tdesE x (slice x 0 8) ++ tdesE x (slice x 8 16))) 0 ∧ t.doutLen = 90)

/-- R216: KSN.INC adds 1 to the KSN as an integer, the carry staying in the low 21 bits; the all-ones counter is
CounterOverflow. -/
def Obligations.KsnIncrementAddsOneOrOverflows : Prop :=
  ∀ s : State,
    encode .ksnInc = 0x00000024 ∧
    (s.len .ksn ≠ 10 → EndsWith .ksnInc s 0x09) ∧
    (s.len .ksn = 10 → int (s.operand .ksn) % 2 ^ 21 = 0x1FFFFF → EndsWith .ksnInc s 0x08) ∧
    (s.len .ksn = 10 → int (s.operand .ksn) % 2 ^ 21 ≠ 0x1FFFFF →
      ∃ t v, exec .ksnInc s = .next t ∧ DoneWith s t false false v 0 ∧ v.length = 10 ∧
        int v = int (s.operand .ksn) + 1)

/-! ## Cryptograms -/

/-- R232, R233: the nine AC.GEN commands and their record; their checks in order. -/
def Obligations.CryptogramRecordFollowsItsRule : Prop :=
  ∀ (c : Instr) (tag : Byte) (m : Method) (w : Word), (c, tag, m, w) ∈ acGenTable → ∀ s : State,
    encode c = w ∧
    (s.len .key0 ≠ 16 → EndsWith c s 0x02) ∧
    (s.len .key0 = 16 → ¬ (LegalDigits s .pan ∧ LegalDigits s .psn ∧ s.len .un ≤ 8) → EndsWith c s 0x09) ∧
    (s.len .key0 = 16 → LegalDigits s .pan → LegalDigits s .psn → s.len .un ≤ 8 → s.len .din > s.dataMax →
      EndsWith c s 0x03) ∧
    (CardReady s → ∃ t sk inp ac, exec c s = .next t ∧ IsCryptogram m s sk inp ac ∧ sk.length = 16 ∧ ac.length = 8 ∧
      DoneWith s t false false
        ([tag] ++ ac ++ sk ++ [BitVec.ofNat 8 (inp.length / 256), BitVec.ofNat 8 inp.length] ++ inp) 0)

/-- R236: the three AC.VERIFY commands: a match gives 01 and VFAIL 0, a mismatch 00 and VFAIL 1, both in DONE; their
checks in order. -/
def Obligations.CryptogramMismatchIsAResult : Prop :=
  ∀ (c : Instr) (m : Method) (w : Word), (c, m, w) ∈ acVerifyTable → ∀ s : State,
    encode c = w ∧
    (s.len .key0 ≠ 16 → EndsWith c s 0x02) ∧
    (s.len .key0 = 16 → ¬ (s.len .aux0 = 8 ∧ LegalDigits s .pan ∧ LegalDigits s .psn ∧ s.len .un ≤ 8) →
      EndsWith c s 0x09) ∧
    (s.len .key0 = 16 → s.len .aux0 = 8 → LegalDigits s .pan → LegalDigits s .psn → s.len .un ≤ 8 →
      s.len .din > s.dataMax → EndsWith c s 0x03) ∧
    (CardReady s → s.len .aux0 = 8 → ∃ t sk inp ac, exec c s = .next t ∧ IsCryptogram m s sk inp ac ∧
      (ac = s.operand .aux0 → DoneWith s t false false [0x01] 0) ∧
      (ac ≠ s.operand .aux0 → DoneWith s t true false [0x00] 0))

/-- R238: ARPC.M1, and its inverse under decryption and XOR; its checks in order. -/
def Obligations.ArpcMethodOneInverts : Prop :=
  ∀ s : State,
    encode .arpcM1 = 0x00000032 ∧
    (s.len .key0 ≠ 16 → EndsWith .arpcM1 s 0x02) ∧
    (s.len .key0 = 16 → ¬ (s.len .aux0 = 8 ∧ s.len .aux1 ≤ 8) → EndsWith .arpcM1 s 0x09) ∧
    (s.len .key0 = 16 → s.len .aux0 = 8 → s.len .aux1 ≤ 8 →
      ∃ t v, exec .arpcM1 s = .next t ∧ DoneWith s t false false v 0 ∧ v.length = 8 ∧
        v = tdesE (s.operand .key0) (xorBytes (s.operand .aux0) (s.operand .aux1 ++ zeros (8 - s.len .aux1))) ∧
        xorBytes (tdesD (s.operand .key0) v) (s.operand .aux1 ++ zeros (8 - s.len .aux1)) = s.operand .aux0)

/-- R240: ARPC.M2 is the first four bytes of the Retail MAC of ARQC ‖ CSU ‖ proprietary data; its checks in order. -/
def Obligations.ArpcMethodTwoTruncatesTheMac : Prop :=
  ∀ s : State,
    encode .arpcM2 = 0x00000033 ∧
    (s.len .key0 ≠ 16 → EndsWith .arpcM2 s 0x02) ∧
    (s.len .key0 = 16 → ¬ (s.len .aux0 = 8 ∧ s.len .aux1 ≤ 8 ∧ s.len .aux2 ≤ 8) → EndsWith .arpcM2 s 0x09) ∧
    (s.len .key0 = 16 → s.len .aux0 = 8 → s.len .aux1 ≤ 8 → s.len .aux2 ≤ 8 →
      ∃ t m, exec .arpcM2 s = .next t ∧ m.length = 8 ∧
        IsRetailMac (s.operand .key0) (zeros 8) (s.operand .aux0 ++ s.operand .aux1 ++ s.operand .aux2) m ∧
        DoneWith s t false false (m.take 4) 0)

/-! ## PIN blocks -/

/-- R253, R254: the five PIN.CREATE commands, nibble by nibble, with their draws; their checks in order. ISO-4 is the
source's placeholder (R260, log entry 15). -/
def Obligations.PinCreateBuildsTheBlock : Prop :=
  ∀ (f : PinFormat) (c x d : Instr), (f, c, x, d) ∈ pinTable → ∀ s : State,
    (¬ (4 ≤ s.len .pin ∧ s.len .pin ≤ 12) → EndsWith c s 0x04) ∧
    (4 ≤ s.len .pin → s.len .pin ≤ 12 → ¬ (LegalDigits s .pin ∧ LegalPan f s) → EndsWith c s 0x09) ∧
    (4 ≤ s.len .pin → s.len .pin ≤ 12 → LegalDigits s .pin → LegalPan f s →
      ∃ t v, exec c s = .next t ∧ DoneWith s t false false v (pinDraws f s) ∧ v.length = 8 ∧
        (∀ k : Nat, k < 16 → nib v k = clearNibble f s k ^^^ maskNibble f s k) ∧
        ∀ k : Nat, k < 4 → nib v k = clearNibble f s k)

/-- R262: the five PIN.EXTRACT commands: the PAN field out, the length nibble checked, the digits one per byte; their
checks in order. -/
def Obligations.PinExtractReadsTheBlock : Prop :=
  ∀ (f : PinFormat) (c x d : Instr), (f, c, x, d) ∈ pinTable → ∀ s : State,
    (¬ (s.len .aux0 = 8 ∧ LegalPan f s) → EndsWith x s 0x09) ∧
    (s.len .aux0 = 8 → LegalPan f s → ¬ LegalPinNibble f s (s.operand .aux0) → EndsWith x s 0x04) ∧
    (s.len .aux0 = 8 → LegalPan f s → LegalPinNibble f s (s.operand .aux0) →
      ∃ t v, exec x s = .next t ∧ DoneWith s t false false v 0 ∧ IsExtractedPin f s (s.operand .aux0) v)

/-- R265: the five PIN.DECRYPT commands: the DES family on the one block, then the extraction; their checks in order. -/
def Obligations.PinDecryptReadsTheEncryptedBlock : Prop :=
  ∀ (f : PinFormat) (c x d : Instr), (f, c, x, d) ∈ pinTable → ∀ (s : State) (b : Bytes),
    b = blockD .des (s.operand .key0) (s.operand .aux0) →
    (¬ LegalKey .des (s.len .key0) → EndsWith d s 0x02) ∧
    (LegalKey .des (s.len .key0) → ¬ (s.len .aux0 = 8 ∧ LegalPan f s) → EndsWith d s 0x09) ∧
    (LegalKey .des (s.len .key0) → s.len .aux0 = 8 → LegalPan f s → ¬ LegalPinNibble f s b → EndsWith d s 0x04) ∧
    (LegalKey .des (s.len .key0) → s.len .aux0 = 8 → LegalPan f s → LegalPinNibble f s b →
      ∃ t v, exec d s = .next t ∧ DoneWith s t false false v 0 ∧ IsExtractedPin f s b v)

/-- R263: PIN.EXTRACT of the block PIN.CREATE made, with the same format and PAN, returns the PIN, for every PIN length
and every random stream. -/
def Obligations.PinRoundTripReturnsThePin : Prop :=
  ∀ (f : PinFormat) (c x d : Instr), (f, c, x, d) ∈ pinTable → ∀ s s' t : State,
    exec c s = .next t → t.st = .done →
    s'.operand .aux0 = t.output → s'.operand .pan = s.operand .pan →
    ∃ t', exec x s' = .next t' ∧ t'.st = .done ∧ t'.output = s.operand .pin

/-- R267: PIN.TRANSLATE decrypts under KEY0 and encrypts under KEY1; its checks in order. -/
def Obligations.PinTranslateReencrypts : Prop :=
  ∀ s : State,
    encode .pinTranslate = 0x00000043 ∧
    (¬ (LegalKey .des (s.len .key0) ∧ LegalKey .des (s.len .key1)) → EndsWith .pinTranslate s 0x02) ∧
    (LegalKey .des (s.len .key0) → LegalKey .des (s.len .key1) → s.len .aux0 ≠ 8 → EndsWith .pinTranslate s 0x09) ∧
    (LegalKey .des (s.len .key0) → LegalKey .des (s.len .key1) → s.len .aux0 = 8 →
      ∃ t v, exec .pinTranslate s = .next t ∧ DoneWith s t false false v 0 ∧ v.length = 8 ∧
        v = blockE .des (s.operand .key1) (blockD .des (s.operand .key0) (s.operand .aux0)) ∧
        blockE .des (s.operand .key0) (blockD .des (s.operand .key1) v) = s.operand .aux0)

/-! ## Key components -/

/-- R285: KEY.GEN gives 8c drawn bytes with odd parity forced; a length code outside R93 is InvalidKeyLength. -/
def Obligations.KeyGenForcesOddParity : Prop :=
  ∀ (s : State) (arg : Nat), arg < 16 → ∀ (alg : Alg) (c : Instr) (w : Word),
    (alg = .des ∧ c = .keyGenDes arg ∧ w = 0x00000050) ∨ (alg = .aes ∧ c = .keyGenAes arg ∧ w = 0x00001050) →
    encode c = w ||| BitVec.ofNat 32 (arg * 2 ^ 16) ∧
    (¬ LegalKey alg (8 * arg) → EndsWith c s 0x02) ∧
    (LegalKey alg (8 * arg) → ∃ t v, exec c s = .next t ∧ DoneWith s t false false v (8 * arg) ∧
      v.length = 8 * arg ∧ ∀ j : Nat, j < 8 * arg → IsFixed (s.rngAt j) (v.getD j 0))

/-- R286 to R288: KEY.SPLIT draws n-1 components, closes with the XOR, and gives the KeyShare record; its checks in
order. -/
def Obligations.KeySplitBuildsTheShare : Prop :=
  ∀ (s : State) (n : Nat), n < 16 → ∀ (alg : Alg) (c : Instr),
    (alg = .des ∧ c = .keySplitDes n) ∨ (alg = .aes ∧ c = .keySplitAes n) →
    (¬ LegalKey alg (s.len .key0) → EndsWith c s 0x02) ∧
    (LegalKey alg (s.len .key0) → n < 2 ∨ n > 9 → EndsWith c s 0x06) ∧
    (LegalKey alg (s.len .key0) → 2 ≤ n → n ≤ 9 →
      ∃ t v cs, exec c s = .next t ∧ DoneWith s t false false v ((n - 1) * s.len .key0) ∧
        IsSplit s (s.operand .key0) n cs ∧ IsKeyShare alg (s.operand .key0) cs v)

/-- R289, R290: KEY.COMBINE XORs the component records and appends the check value; its checks in order. -/
def Obligations.KeyCombineXorsTheComponents : Prop :=
  ∀ (s : State) (n : Nat), n < 16 → ∀ (alg : Alg) (c : Instr),
    (alg = .des ∧ c = .keyCombineDes n) ∨ (alg = .aes ∧ c = .keyCombineAes n) →
    (n = 0 → EndsWith c s 0x06) ∧
    (n ≠ 0 → (s.len .din > s.dataMax ∨ ¬ ∃ vs, vs.length = n ∧ ParsesAs s vs) → EndsWith c s 0x03) ∧
    ∀ vs : List Bytes, n ≠ 0 → s.len .din ≤ s.dataMax → vs.length = n → ParsesAs s vs →
      ((¬ ∃ l : Nat, ∀ v ∈ vs, v.length = l) → EndsWith c s 0x05) ∧
      ∀ l : Nat, (∀ v ∈ vs, v.length = l) →
        (¬ LegalKey alg l → EndsWith c s 0x02) ∧
        (LegalKey alg l → ∃ t k, exec c s = .next t ∧ IsXorOf vs l k ∧ DoneWith s t false false (k ++ kcv alg k) 0)

/-- R290: combining the components that a split of a key gave recovers the key and its check value, for every count 2
to 9. -/
def Obligations.SplitThenCombineRecoversTheKey : Prop :=
  ∀ (s s' t : State) (n : Nat) (alg : Alg) (c d : Instr),
    (alg = .des ∧ c = .keySplitDes n ∧ d = .keyCombineDes n) ∨
      (alg = .aes ∧ c = .keySplitAes n ∧ d = .keyCombineAes n) →
    LegalKey alg (s.len .key0) → 2 ≤ n → n ≤ 9 → exec c s = .next t →
    s'.operand .din = recordsOf ((List.range n).map fun i =>
      slice t.output (6 + s.len .key0 + i * (s.len .key0 + 4)) (6 + s.len .key0 + i * (s.len .key0 + 4) + s.len .key0)) →
    ∃ t', exec d s' = .next t' ∧
      DoneWith s' t' false false (s.operand .key0 ++ kcv alg (s.operand .key0)) 0

/-- R282, R283: KEY.KCV is the first three bytes of the encrypted zero block; a wrong key length is InvalidKeyLength. -/
def Obligations.KeyCheckValueEncryptsZeros : Prop :=
  ∀ (s : State) (alg : Alg) (c : Instr) (w : Word),
    (alg = .des ∧ c = .keyKcvDes ∧ w = 0x00000053) ∨ (alg = .aes ∧ c = .keyKcvAes ∧ w = 0x00001053) →
    encode c = w ∧
    (¬ LegalKey alg (s.len .key0) → EndsWith c s 0x02) ∧
    (LegalKey alg (s.len .key0) → ∃ t v, exec c s = .next t ∧ DoneWith s t false false v 0 ∧ v.length = 3 ∧
      v = (blockE alg (s.operand .key0) (zeros alg.block)).take 3)

/-- R295, R296: PAR.CHECK reports whether every byte of DIN has odd parity, as a result; PAR.FIX forces it. -/
def Obligations.ParityCommandsTestAndFix : Prop :=
  ∀ s : State,
    encode .parCheck = 0x00000054 ∧ encode .parFix = 0x00000055 ∧
    (s.len .din > s.dataMax → EndsWith .parCheck s 0x03 ∧ EndsWith .parFix s 0x03) ∧
    (s.len .din ≤ s.dataMax → (∀ b ∈ s.operand .din, ones b % 2 = 1) →
      ∃ t, exec .parCheck s = .next t ∧ DoneWith s t false true [0x01] 0) ∧
    (s.len .din ≤ s.dataMax → ¬ (∀ b ∈ s.operand .din, ones b % 2 = 1) →
      ∃ t, exec .parCheck s = .next t ∧ DoneWith s t false false [0x00] 0) ∧
    (s.len .din ≤ s.dataMax → ∃ t v, exec .parFix s = .next t ∧ DoneWith s t false false v 0 ∧
      v.length = s.len .din ∧ ∀ j : Nat, j < s.len .din → IsFixed ((s.operand .din).getD j 0) (v.getD j 0))

/-- R281: fixing parity twice is fixing it once, and a fixed string passes the check. -/
def Obligations.ParityFixIsIdempotent : Prop :=
  ∀ k : Bytes, fixParity (fixParity k) = fixParity k ∧ checkParity (fixParity k) = true

/-! ## The text layer -/

/-- R313: reading back the hex text of a byte string gives the byte string; the text has two characters per byte. R312,
R320: a call with an argument that is no hex text has no script, so it makes no bus access. -/
def Obligations.HexTextRoundTrips : Prop :=
  (∀ b : Bytes, unhex (hex b) = .ok b ∧ (hex b).length = 2 * b.length ∧
    ∀ c ∈ hex b, (0x30 ≤ c.toNat ∧ c.toNat ≤ 0x39) ∨ (0x41 ≤ c.toNat ∧ c.toNat ≤ 0x46)) ∧
  ∀ (dataMax : Nat) (c : TextCall) (b : Buf) (text : List Char), (b, text) ∈ c.args → b ≠ .pan → b ≠ .psn → b ≠ .pin →
    (∀ a : Bytes, unhex text ≠ .ok a) → c.script dataMax = .error .invalidHexInput

/-! ## The invariant -/

/-- The reset state satisfies the invariant. -/
def Obligations.ResetStateHasTheInvariant : Prop := Inv State.reset

/-- Every step keeps the invariant: canonical memory that lists only existing bytes, IRQ exactly in DONE and ERROR, a
legal ERR exactly in ERROR, VFAIL and PAROK in DONE only and never both, and DOUT zero behind DOUT_LEN. -/
def Obligations.EveryStepKeepsTheInvariant : Prop :=
  ∀ s t : State, Inv s → step s = .next t → Inv t
end

