-- ==== Sys2Proof/Laws/Bytes.lean ====
section
/-! SUPPORT. Byte strings, big-endian integers, nibbles and parity: lengths, elements, and the round trips. -/

namespace Sys2Proof.Machine

/-! ## Lengths and elements -/

@[simp] theorem zeros_length (n : Nat) : (zeros n).length = n := by simp [zeros]

theorem zeros_getD (n k : Nat) : (zeros n).getD k 0 = 0 := by
  simp only [zeros, List.getD_eq_getElem?_getD, List.getElem?_replicate]
  split <;> rfl

@[simp] theorem xorBytes_length (a b : Bytes) : (xorBytes a b).length = min a.length b.length := by simp [xorBytes]

theorem xorBytes_getD (a b : Bytes) (k : Nat) (ha : k < a.length) (hb : k < b.length) :
    (xorBytes a b).getD k 0 = a.getD k 0 ^^^ b.getD k 0 := by
  simp [xorBytes, ha, hb]

/-- XOR with the same string twice gives the string back. -/
theorem xorBytes_xorBytes_cancel (a b : Bytes) (h : a.length ≤ b.length) : xorBytes (xorBytes a b) b = a := by
  induction a generalizing b with
  | nil => simp [xorBytes]
  | cons x r ih =>
    cases b with
    | nil => simp at h
    | cons y t =>
      have := ih t (by simpa using h)
      simp only [xorBytes, List.zipWith_cons_cons] at this ⊢
      rw [this, BitVec.xor_assoc, BitVec.xor_self, BitVec.xor_zero]

theorem xorBytes_comm (a b : Bytes) : xorBytes a b = xorBytes b a := by
  unfold xorBytes
  rw [List.zipWith_comm]
  congr 1
  funext x y
  exact BitVec.xor_comm y x

@[simp] theorem be_length (n v : Nat) : (be n v).length = n := by
  induction n with
  | zero => rfl
  | succ n ih => simp [be, ih]

theorem slice_length (a : Bytes) (i j : Nat) (h : j ≤ a.length) : (slice a i j).length = j - i := by
  simp only [slice, List.length_take, List.length_drop]
  omega

theorem slice_getD (a : Bytes) (i j k : Nat) (h : i + k < j) : (slice a i j).getD k 0 = a.getD (i + k) 0 := by
  simp only [slice, List.getD_eq_getElem?_getD, List.getElem?_take, List.getElem?_drop]
  rw [if_pos (by omega)]

@[simp] theorem blocksOf_length (b n : Nat) (d : Bytes) : (blocksOf b n d).length = n := by
  induction n generalizing d with
  | zero => rfl
  | succ n ih => simp [blocksOf, ih]

/-- Block `i` of a string. -/
theorem blocksOf_getD (b n i : Nat) (d : Bytes) (h : i < n) :
    (blocksOf b n d).getD i [] = slice d (b * i) (b * (i + 1)) := by
  induction n generalizing d i with
  | zero => omega
  | succ n ih =>
    cases i with
    | zero => simp [blocksOf, slice]
    | succ i =>
      have h1 : b * (i + 1 + 1) - b * (i + 1) = b := by
        rw [← Nat.mul_sub]
        simp
      have h2 : b * (i + 1) - b * i = b := by
        rw [← Nat.mul_sub]
        simp
      have := ih i (d.drop b) (by omega)
      simp only [blocksOf, List.getD_cons_succ, slice, List.drop_drop, h1, h2] at this ⊢
      rw [this]
      congr 2
      ring

theorem blocksOf_mem_length (b n : Nat) (d : Bytes) (h : b * n ≤ d.length) : ∀ x ∈ blocksOf b n d, x.length = b := by
  induction n generalizing d with
  | zero => simp [blocksOf]
  | succ n ih =>
    intro x hx
    have hb : b * (n + 1) = b * n + b := by ring
    simp only [blocksOf, List.mem_cons] at hx
    rcases hx with rfl | hx
    · simp only [List.length_take]
      omega
    · exact ih (d.drop b) (by simp only [List.length_drop]; omega) x hx

/-- A string of whole blocks is the concatenation of its blocks. -/
theorem blocksOf_flatten (b n : Nat) (d : Bytes) (h : d.length = b * n) : (blocksOf b n d).flatten = d := by
  induction n generalizing d with
  | zero => simpa [blocksOf] using (List.length_eq_zero_iff.mp (by simpa using h)).symm
  | succ n ih =>
    have hb : b * (n + 1) = b * n + b := by ring
    simp only [blocksOf, List.flatten_cons]
    rw [ih (d.drop b) (by simp only [List.length_drop]; omega), List.take_append_drop]

/-! ## Big-endian integers -/

theorem int_foldl (a : Bytes) (n : Nat) :
    a.foldl (fun acc b => 256 * acc + b.toNat) n = 256 ^ a.length * n + int a := by
  induction a generalizing n with
  | nil => simp [int]
  | cons x r ih =>
    simp only [int, List.foldl_cons, List.length_cons] at ih ⊢
    rw [ih, ih (256 * 0 + x.toNat)]
    ring

@[simp] theorem int_nil : int [] = 0 := rfl

theorem int_cons (x : Byte) (r : Bytes) : int (x :: r) = 256 ^ r.length * x.toNat + int r := by
  have := int_foldl r (256 * 0 + x.toNat)
  simpa [int] using this

theorem int_append (a b : Bytes) : int (a ++ b) = 256 ^ b.length * int a + int b := by
  unfold int
  rw [List.foldl_append, int_foldl]
  rfl

theorem int_lt (a : Bytes) : int a < 256 ^ a.length := by
  induction a with
  | nil => simp
  | cons x r ih =>
    rw [int_cons, List.length_cons, pow_succ]
    have hx : x.toNat < 256 := x.isLt
    calc 256 ^ r.length * x.toNat + int r < 256 ^ r.length * x.toNat + 256 ^ r.length := by omega
      _ = 256 ^ r.length * (x.toNat + 1) := by ring
      _ ≤ 256 ^ r.length * 256 := Nat.mul_le_mul_left _ (by omega)

/-- `int(be(n, v)) = v` for `v < 2^(8n)` (R10). -/
theorem int_be (n v : Nat) : int (be n v) = v % 256 ^ n := by
  induction n generalizing v with
  | zero => simp [be, Nat.mod_one]
  | succ n ih =>
    rw [be, int_cons, be_length, ih, BitVec.toNat_ofNat, pow_succ]
    show 256 ^ n * (v / 256 ^ n % 256) + v % 256 ^ n = v % (256 ^ n * 256)
    rw [Nat.mod_mul, Nat.add_comm]

theorem int_inj {a b : Bytes} (hl : a.length = b.length) (h : int a = int b) : a = b := by
  induction a generalizing b with
  | nil => exact (List.length_eq_zero_iff.mp hl.symm).symm
  | cons x r ih =>
    cases b with
    | nil => simp at hl
    | cons y t =>
      have hl' : r.length = t.length := by simpa using hl
      rw [int_cons, int_cons, hl'] at h
      have h1 := int_lt r
      have h2 := int_lt t
      rw [hl'] at h1
      have hxy : x.toNat = y.toNat := by
        have hp : 0 < 256 ^ t.length := Nat.pow_pos (by decide)
        have e1 := Nat.add_mul_div_left (int r) x.toNat hp
        have e2 := Nat.add_mul_div_left (int t) y.toNat hp
        rw [Nat.div_eq_of_lt h1] at e1
        rw [Nat.div_eq_of_lt h2] at e2
        rw [Nat.add_comm] at h
        rw [h, Nat.add_comm, e2] at e1
        omega
      rw [hxy] at h
      rw [BitVec.eq_of_toNat_eq hxy, ih hl' (by omega)]

/-- `be(n, int(a)) = a` for a string of `n` bytes (R10). -/
theorem be_int (a : Bytes) (n : Nat) (h : a.length = n) : be n (int a) = a := by
  subst h
  exact int_inj (by simp) (by rw [int_be, Nat.mod_eq_of_lt (int_lt a)])

/-! ## Nibbles -/

@[simp] theorem nibs_length (a : Bytes) : (nibs a).length = 2 * a.length := by
  induction a with
  | nil => rfl
  | cons b r ih => simp only [nibs, List.length_cons, ih]; omega

/-- A byte is its two nibbles. -/
theorem hi_append_lo (b : Byte) : (hiNibble b ++ loNibble b : BitVec 8) = b := by
  revert b; decide +kernel

theorem hiNibble_append (h l : Nibble) : hiNibble (h ++ l : BitVec 8) = h := by
  revert h l; decide +kernel

theorem loNibble_append (h l : Nibble) : loNibble (h ++ l : BitVec 8) = l := by
  revert h l; decide +kernel

/-- `pack(nib(a)) = a` (R11). -/
theorem pack_nibs (a : Bytes) : pack (nibs a) = a := by
  induction a with
  | nil => rfl
  | cons b r ih => simp only [nibs, pack, ih, hi_append_lo]

/-- `nib(pack(d)) = d` for an even number of nibbles (R11). -/
theorem nibs_pack (d : List Nibble) (n : Nat) (h : d.length = 2 * n) : nibs (pack d) = d := by
  induction n generalizing d with
  | zero => simp [List.length_eq_zero_iff.mp (by simpa using h), pack, nibs]
  | succ n ih =>
    match d, h with
    | x :: y :: r, h =>
      have : r.length = 2 * n := by simp only [List.length_cons] at h; omega
      simp only [pack, nibs, ih r this, hiNibble_append, loNibble_append]

theorem pack_length (d : List Nibble) (n : Nat) (h : d.length = 2 * n) : (pack d).length = n := by
  have := congrArg List.length (nibs_pack d n h)
  rw [nibs_length, h] at this
  omega

/-- A digit goes into a byte and comes back (R38). -/
theorem digitOf_digitByte (d : Nibble) : digitOf (digitByte d) = d := by
  revert d; decide +kernel

theorem digitByte_digitOf (b : Byte) (h : b.toNat ≤ 15) : digitByte (digitOf b) = b := by
  revert b; decide +kernel

/-- XOR acts on nibbles one by one. -/
theorem nibs_xorBytes (a b : Bytes) : nibs (xorBytes a b) = List.zipWith (· ^^^ ·) (nibs a) (nibs b) := by
  induction a generalizing b with
  | nil => simp [xorBytes, nibs]
  | cons x r ih =>
    cases b with
    | nil => simp [xorBytes, nibs]
    | cons y t =>
      have h1 : hiNibble (x ^^^ y) = hiNibble x ^^^ hiNibble y := by ext i; simp [hiNibble]
      have h2 : loNibble (x ^^^ y) = loNibble x ^^^ loNibble y := by ext i; simp [loNibble]
      simp only [xorBytes, List.zipWith_cons_cons, nibs] at ih ⊢
      rw [h1, h2, ih]

/-! ## Parity -/

@[simp] theorem fixParity_length (k : Bytes) : (fixParity k).length = k.length := by simp [fixParity]

/-- A fixed byte keeps bits 7 to 1 and has odd parity (R280). -/
theorem fixByte_spec (b : Byte) : fixByte b >>> 1 = b >>> 1 ∧ ones (fixByte b) % 2 = 1 := by
  revert b; decide +kernel

/-- The parity of a byte is the XOR of its bits. -/
theorem ones_mod_two (b : Byte) : ones b % 2 =
    (b.getLsbD 0 ^^ b.getLsbD 1 ^^ b.getLsbD 2 ^^ b.getLsbD 3 ^^ b.getLsbD 4 ^^ b.getLsbD 5 ^^ b.getLsbD 6
      ^^ b.getLsbD 7).toNat := by
  revert b; decide +kernel

/-- The parity of an XOR is the sum of the parities (R294). -/
theorem ones_xor (a b : Byte) : ones (a ^^^ b) % 2 = (ones a + ones b) % 2 := by
  have h : ∀ p q : Bool, (p ^^ q).toNat = (p.toNat + q.toNat) % 2 := by decide
  rw [Nat.add_mod, ones_mod_two a, ones_mod_two b, ones_mod_two (a ^^^ b), ← h]
  congr 1
  simp only [BitVec.getLsbD_xor]
  generalize a.getLsbD 0 = a0, a.getLsbD 1 = a1, a.getLsbD 2 = a2, a.getLsbD 3 = a3, a.getLsbD 4 = a4,
    a.getLsbD 5 = a5, a.getLsbD 6 = a6, a.getLsbD 7 = a7, b.getLsbD 0 = b0, b.getLsbD 1 = b1, b.getLsbD 2 = b2,
    b.getLsbD 3 = b3, b.getLsbD 4 = b4, b.getLsbD 5 = b5, b.getLsbD 6 = b6, b.getLsbD 7 = b7
  have hc : Std.Commutative Bool.xor := ⟨Bool.xor_comm⟩
  ac_rfl

/-- The byte fixed is the only one of odd parity with its bits 7 to 1 (R280). -/
theorem fixByte_unique (b c : Byte) (h1 : c >>> 1 = b >>> 1) (h2 : ones c % 2 = 1) : c = fixByte b := by
  have h0 : ∀ e : Byte, e >>> 1 = 0 → ones e % 2 = 0 → e = 0 := by decide +kernel
  obtain ⟨h3, h4⟩ := fixByte_spec b
  have h5 := h0 (c ^^^ fixByte b) (by rw [BitVec.ushiftRight_xor_distrib, h1, h3, BitVec.xor_self]; rfl)
    (by rw [ones_xor]; omega)
  exact BitVec.xor_eq_zero_iff.mp h5

end Sys2Proof.Machine
end

