-- ==== Sys2Proof/Laws/Blocks.lean ====
section
/-! SUPPORT. The lengths of what the block functions and the modes give, and how a mode's blocks lie in its output. -/

namespace Sys2Proof.Machine

@[simp] theorem desE_length (key x : Bytes) : (desE key x).length = 8 := by simp [desE]
@[simp] theorem desD_length (key x : Bytes) : (desD key x).length = 8 := by simp [desD]
@[simp] theorem tdesE_length (key x : Bytes) : (tdesE key x).length = 8 := by simp [tdesE]
@[simp] theorem tdesD_length (key x : Bytes) : (tdesD key x).length = 8 := by simp [tdesD]

/-! ## AES -/

@[simp] theorem shiftRows_length (s : Bytes) : (shiftRows s).length = 16 := by simp [shiftRows]
@[simp] theorem invShiftRows_length (s : Bytes) : (invShiftRows s).length = 16 := by simp [invShiftRows]

theorem mixColumns_length (s : Bytes) (n : Nat) (h : s.length = 4 * n) : (mixColumns s).length = 4 * n := by
  induction n generalizing s with
  | zero => simp [List.length_eq_zero_iff.mp (by simpa using h), mixColumns]
  | succ n ih =>
    match s, h with
    | a :: b :: c :: d :: r, h =>
      have hr : r.length = 4 * n := by simp only [List.length_cons] at h; omega
      simp only [mixColumns, List.length_cons, ih r hr]
      omega

theorem invMixColumns_length (s : Bytes) (n : Nat) (h : s.length = 4 * n) : (invMixColumns s).length = 4 * n := by
  induction n generalizing s with
  | zero => simp [List.length_eq_zero_iff.mp (by simpa using h), invMixColumns]
  | succ n ih =>
    match s, h with
    | a :: b :: c :: d :: r, h =>
      have hr : r.length = 4 * n := by simp only [List.length_cons] at h; omega
      simp only [invMixColumns, List.length_cons, ih r hr]
      omega

theorem aesEncRounds_length (ks : List Bytes) (s : Bytes) (hk : ∀ k ∈ ks, k.length = 16) (hs : s.length = 16) :
    (aesEncRounds ks s).length = 16 := by
  match ks with
  | [] => simpa [aesEncRounds] using hs
  | [k] => simp [aesEncRounds, hk k (by simp)]
  | k :: k2 :: r =>
    have h1 : k.length = 16 := hk k (by simp)
    rw [aesEncRounds]
    exact aesEncRounds_length (k2 :: r) _ (fun x hx => hk x (by simp [List.mem_cons.mp hx]))
      (by simp [mixColumns_length _ 4, h1])

theorem aesDecRounds_length (ks : List Bytes) (s : Bytes) (hk : ∀ k ∈ ks, k.length = 16) (hs : s.length = 16) :
    (aesDecRounds ks s).length = 16 := by
  match ks with
  | [] => simpa [aesDecRounds] using hs
  | [k] => simp [aesDecRounds, hk k (by simp)]
  | k :: k2 :: r =>
    have h1 : k.length = 16 := hk k (by simp)
    rw [aesDecRounds]
    exact aesDecRounds_length (k2 :: r) _ (fun x hx => hk x (by simp [List.mem_cons.mp hx]))
      (invMixColumns_length _ 4 (by simp [h1]))

/-- The key expansion only appends words (R136). -/
theorem expandWords_spec (nk n : Nat) (w : List Bytes) (hnk : 0 < nk) (hw : nk ≤ w.length)
    (h4 : ∀ x ∈ w, x.length = 4) :
    (expandWords nk n w).length = w.length + n ∧ ∀ x ∈ expandWords nk n w, x.length = 4 := by
  induction n generalizing w with
  | zero => exact ⟨rfl, h4⟩
  | succ n ih =>
    have hget : ∀ i, i < w.length → (w.getD i []).length = 4 := by
      intro i hi
      rw [List.getD_eq_getElem _ _ hi]
      exact h4 _ (List.getElem_mem hi)
    have h1 := hget (w.length - 1) (by omega)
    have h2 := hget (w.length - nk) (by omega)
    have hn : (nextWord nk w).length = 4 := by
      simp only [nextWord, xorBytes_length, h2]
      split
      · simp only [xorBytes_length, List.length_map, rotWord, List.length_append, List.length_drop, List.length_take, h1]
        rfl
      · split
        · simp only [List.length_map, h1]; rfl
        · rw [h1]; rfl
    have := ih (w ++ [nextWord nk w]) (by simp; omega) (by
      intro x hx
      rcases List.mem_append.mp hx with hx | hx
      · exact h4 x hx
      · rw [List.mem_singleton.mp hx, hn])
    simp only [expandWords]
    refine ⟨?_, this.2⟩
    rw [this.1]
    simp only [List.length_append, List.length_singleton]
    omega

theorem flatten_length_of_mem (b : Nat) (l : List Bytes) (h : ∀ x ∈ l, x.length = b) :
    l.flatten.length = b * l.length := by
  induction l with
  | nil => simp
  | cons x r ih =>
    simp only [List.flatten_cons, List.length_append, List.length_cons, h x (by simp),
      ih fun y hy => h y (by simp [hy])]
    ring

/-- A legal AES key has Nr + 1 round keys of 16 bytes each (R132, R136). -/
theorem aesKeys_spec (key : Bytes) (h : key.length = 16 ∨ key.length = 24 ∨ key.length = 32) :
    (aesKeys key).length = key.length / 4 + 7 ∧ ∀ k ∈ aesKeys key, k.length = 16 := by
  have hb := blocksOf_mem_length 4 (key.length / 4) key (by omega)
  obtain ⟨h1, h2⟩ := expandWords_spec (key.length / 4) (4 * (key.length / 4 + 6 + 1) - key.length / 4)
    (blocksOf 4 (key.length / 4) key) (by omega) (by simp) hb
  refine ⟨by simp [aesKeys], ?_⟩
  refine blocksOf_mem_length 16 _ _ ?_
  rw [flatten_length_of_mem 4 _ h2, h1, blocksOf_length]
  omega

/-- `AES_E` gives a block (R137). -/
theorem aesE_length (key x : Bytes) (hk : key.length = 16 ∨ key.length = 24 ∨ key.length = 32) (hx : x.length = 16) :
    (aesE key x).length = 16 := by
  obtain ⟨_, h2⟩ := aesKeys_spec key hk
  unfold aesE
  split
  · exact hx
  · rename_i k0 ks he
    rw [he] at h2
    exact aesEncRounds_length ks _ (fun k h => h2 k (by simp [h])) (by simp [hx, h2 k0 (by simp)])

/-- `AES_D` gives a block (R138). -/
theorem aesD_length (key x : Bytes) (hk : key.length = 16 ∨ key.length = 24 ∨ key.length = 32) (hx : x.length = 16) :
    (aesD key x).length = 16 := by
  obtain ⟨_, h2⟩ := aesKeys_spec key hk
  unfold aesD
  split
  · exact hx
  · rename_i kn ks he
    have hm : ∀ k ∈ kn :: ks, k.length = 16 := fun k h => h2 k (by rw [← List.mem_reverse, he]; exact h)
    exact aesDecRounds_length ks _ (fun k h => hm k (by simp [h])) (by simp [hx, hm kn (by simp)])

/-! ## Modes -/

@[simp] theorem ecb_length (f : Bytes → Bytes) (xs : List Bytes) : (ecb f xs).length = xs.length := by simp [ecb]

@[simp] theorem cbcEnc_length (e : Bytes → Bytes) (p : Bytes) (xs : List Bytes) :
    (cbcEnc e p xs).length = xs.length := by
  induction xs generalizing p <;> simp [cbcEnc, *]

@[simp] theorem cbcDec_length (d : Bytes → Bytes) (p : Bytes) (xs : List Bytes) :
    (cbcDec d p xs).length = xs.length := by
  induction xs generalizing p <;> simp [cbcDec, *]

@[simp] theorem cfbEnc_length (e : Bytes → Bytes) (p : Bytes) (xs : List Bytes) :
    (cfbEnc e p xs).length = xs.length := by
  induction xs generalizing p <;> simp [cfbEnc, *]

@[simp] theorem cfbDec_length (e : Bytes → Bytes) (p : Bytes) (xs : List Bytes) :
    (cfbDec e p xs).length = xs.length := by
  induction xs generalizing p <;> simp [cfbDec, *]

@[simp] theorem ofb_length (e : Bytes → Bytes) (p : Bytes) (xs : List Bytes) : (ofb e p xs).length = xs.length := by
  induction xs generalizing p <;> simp [ofb, *]

@[simp] theorem ctr_length (e : Bytes → Bytes) (c : Bytes) (xs : List Bytes) : (ctr e c xs).length = xs.length := by
  induction xs generalizing c <;> simp [ctr, *]

@[simp] theorem modeBlocks_length (m : Mode) (d : Dir) (alg : Alg) (key iv : Bytes) (xs : List Bytes) :
    (modeBlocks m d alg key iv xs).length = xs.length := by
  cases m <;> cases d <;> simp [modeBlocks]

/-- A counter block keeps its length and counts as an integer that wraps (R158). -/
theorem incBlock_spec (c : Bytes) :
    (incBlock c).length = c.length ∧ int (incBlock c) = (int c + 1) % 2 ^ (8 * c.length) := by
  refine ⟨by simp [incBlock], ?_⟩
  have hp : 256 ^ c.length = 2 ^ (8 * c.length) := by rw [pow_mul]; norm_num
  rw [incBlock, int_be, hp, Nat.mod_mod]

/-- Block `i` of a concatenation of `b`-byte blocks. -/
theorem slice_flatten (b : Nat) (l : List Bytes) (i : Nat) (h : ∀ x ∈ l, x.length = b) (hi : i < l.length) :
    slice l.flatten (b * i) (b * (i + 1)) = l.getD i [] := by
  induction l generalizing i with
  | nil => simp at hi
  | cons x r ih =>
    have hx : x.length = b := h x (by simp)
    have hr : ∀ y ∈ r, y.length = b := fun y hy => h y (by simp [hy])
    have e1 : b * (i + 1) - b * i = b := by rw [← Nat.mul_sub]; simp
    cases i with
    | zero => simp [slice, hx]
    | succ i =>
      have := ih i hr (by simpa using hi)
      have e2 : b * (i + 1) - b * i = b := by rw [← Nat.mul_sub]; simp
      simp only [slice, e1, e2, List.flatten_cons, List.getD_cons_succ] at this ⊢
      rw [← this, List.drop_append, hx, List.drop_eq_nil_of_le (by rw [hx, Nat.mul_succ]; omega), List.nil_append]
      congr 2
      rw [Nat.mul_succ]
      omega

end Sys2Proof.Machine
end

