-- ==== Sys2Proof/Laws/Bus.lean ====
section
/-! SUPPORT. The bus: which location an access reaches, and what a read and a write do there. -/

namespace Sys2Proof.Machine

/-- DATA_MAX and DOUT_MAX after reset as numbers (R9, R66). -/
theorem reset_dataMax : State.reset.dataMax = 1024 := rfl
theorem reset_doutMax : State.reset.doutMax = 1088 := rfl

/-- An access reaches a location only as a 32-bit access at a multiple of 4 (R64). -/
theorem access_eq_some {s : State} {w : AccessWidth} {off : Offset} {l : Loc} :
    s.access w off = some l ↔ w = .w32 ∧ off.toNat % 4 = 0 ∧ locate s.dataMax off.toNat = some l := by
  cases w <;> simp [State.access]

/-- The address map read backwards: where each location stands (R65). -/
def Loc.At (m a : Nat) : Loc → Prop
  | .id => a = 0x000
  | .ctrl => a = 0x004
  | .status => a = 0x008
  | .cmd => a = 0x00C
  | .ien => a = 0x010
  | .atc => a = 0x014
  | .len b => a = b.lenOff
  | .doutLen => a = 0x050
  | .win b k => b.base ≤ a ∧ a < b.base + b.window m ∧ k = a - b.base
  | .dout k => doutBase ≤ a ∧ a < doutBase + (m + 64) ∧ k = a - doutBase

/-- A located offset stands where the map says (R65). -/
theorem locate_at {m a : Nat} {l : Loc} (h : locate m a = some l) : l.At m a := by
  unfold locate at h
  split at h
  · rename_i r hr
    have h1 := List.mem_of_find?_eq_some hr
    have h2 := List.find?_some hr
    simp only [beq_iff_eq] at h2
    simp only [Option.some.injEq] at h
    subst h h2
    simp only [wordRegs, List.mem_cons, List.not_mem_nil, or_false] at h1
    rcases h1 with rfl | rfl | rfl | rfl | rfl | rfl | rfl <;> rfl
  · split at h
    · rename_i b hb
      have h2 := List.find?_some hb
      simp only [beq_iff_eq] at h2
      simp only [Option.some.injEq] at h
      subst h
      exact h2.symm
    · split at h
      · rename_i b hb
        have h2 := List.find?_some hb
        simp only [decide_eq_true_eq] at h2
        simp only [Option.some.injEq] at h
        subst h
        exact ⟨h2.1, h2.2, rfl⟩
      · split at h
        · rename_i h2
          simp only [Option.some.injEq] at h
          subst h
          exact ⟨h2.1, h2.2, rfl⟩
        · simp at h

/-- The single registers of the map (R65). -/
theorem locate_id (m : Nat) : locate m 0x000 = some .id := rfl
theorem locate_ctrl (m : Nat) : locate m 0x004 = some .ctrl := rfl
theorem locate_status (m : Nat) : locate m 0x008 = some .status := rfl
theorem locate_cmd (m : Nat) : locate m 0x00C = some .cmd := rfl
theorem locate_ien (m : Nat) : locate m 0x010 = some .ien := rfl
theorem locate_atc (m : Nat) : locate m 0x014 = some .atc := rfl
theorem locate_doutLen (m : Nat) : locate m 0x050 = some .doutLen := rfl
theorem locate_lenOff (m : Nat) (b : Buf) : locate m b.lenOff = some (.len b) := by cases b <;> rfl

/-- Bytes of the word over four bytes (R61). -/
theorem wordOf_extract (b0 b1 b2 b3 : Byte) :
    (wordOf b0 b1 b2 b3).extractLsb' 24 8 = b0 ∧ (wordOf b0 b1 b2 b3).extractLsb' 16 8 = b1 ∧
    (wordOf b0 b1 b2 b3).extractLsb' 8 8 = b2 ∧ (wordOf b0 b1 b2 b3).extractLsb' 0 8 = b3 := by
  refine ⟨?_, ?_, ?_, ?_⟩ <;>
  · refine BitVec.eq_of_getLsbD_eq fun i hi => ?_
    simp only [wordOf, BitVec.getLsbD_extractLsb', BitVec.getLsbD_append]
    grind

/-- The four bytes of a word make the word again (R61). -/
theorem wordOf_bytesOf (v : Word) :
    wordOf (v.extractLsb' 24 8) (v.extractLsb' 16 8) (v.extractLsb' 8 8) (v.extractLsb' 0 8) = v := by
  refine BitVec.eq_of_getLsbD_eq fun i hi => ?_
  simp only [wordOf, BitVec.getLsbD_append, BitVec.getLsbD_extractLsb']
  grind

/-- A read of an access that reaches nothing is a bus error, and a write changes nothing (R67). -/
theorem busRead_none {s : State} {w : AccessWidth} {off : Offset} (h : s.access w off = none) :
    s.busRead w off = .busError := by simp [State.busRead, h]
theorem busWrite_none {s : State} {w : AccessWidth} {off : Offset} (h : s.access w off = none) (v : Word) :
    s.busWrite w off v = s := by simp [State.busWrite, h]
theorem busWriteResp_none {s : State} {w : AccessWidth} {off : Offset} (h : s.access w off = none) :
    s.busWriteResp w off = .busError := by simp [State.busWriteResp, h]

/-- A read of a location (R62). -/
theorem busRead_some {s : State} {w : AccessWidth} {off : Offset} {l : Loc} (h : s.access w off = some l) :
    s.busRead w off = .data (s.readLoc l) := by simp [State.busRead, h]

/-- A write of a location, outside BUSY and in it (R63, R376). -/
theorem busWrite_some {s : State} {w : AccessWidth} {off : Offset} {l : Loc} (h : s.access w off = some l) (v : Word) :
    s.busWrite w off v = if s.st = .busy then s.writeWhileBusy v l else s.writeLoc v l := by
  simp [State.busWrite, h]
theorem busWriteResp_some {s : State} {w : AccessWidth} {off : Offset} {l : Loc} (h : s.access w off = some l) :
    s.busWriteResp w off = .written := by simp [State.busWriteResp, h]

/-- While BUSY a write is ZEROIZE or nothing (R376). -/
theorem writeWhileBusy_cases (s : State) (v : Word) (l : Loc) :
    s.writeWhileBusy v l = s ∨ (l = .ctrl ∧ v.getLsbD 2 = true ∧ s.writeWhileBusy v l = s.zeroized) := by
  cases l <;> simp only [State.writeWhileBusy, true_or, true_and, reduceCtorEq]
  split <;> simp_all

/-- What a host step of each line does: one access, or a move of the position (R111). -/
theorem hostLine_wr (w : AccessWidth) (off : Offset) (v : Word) (s : State) :
    hostLine (.wr w off v) s = .next { (s.busWrite w off v).nextLine with resp := s.busWriteResp w off } := rfl
theorem hostLine_rd (w : AccessWidth) (off : Offset) (x : Nat) (s : State) :
    hostLine (.rd w off x) s =
      .next { (s.setLocal x (s.busRead w off).word).nextLine with resp := s.busRead w off } := rfl

/-- A step of the reads of an `rdb` on a name that has a value: one more word, or the byte string (R75, R112). -/
theorem hostLine_rdDout (n x : Nat) (s : State) (v : Word) (h : s.localVal n = some v) :
    (4 * s.rdbWords.length < v.toNat → hostLine (.rdDout n x) s = .next s.readNextWord) ∧
    (v.toNat ≤ 4 * s.rdbWords.length → hostLine (.rdDout n x) s = .next (s.takeString x v.toNat).nextLine) := by
  simp only [hostLine, readDout, h]
  exact ⟨fun g => if_pos g, fun g => if_neg (Nat.not_lt.mpr g)⟩

/-- A host step that answers a next state changes the core only through a bus write (R111, R112). -/
theorem hostLine_next {l : HostLine} {s t : State} (h : hostLine l s = .next t) :
    (∃ w off v, l = .wr w off v ∧ t = { (s.busWrite w off v).nextLine with resp := s.busWriteResp w off }) ∨
      ∃ (p : Nat) (ls : List (Nat × Word)) (ws : List Word) (bs : List (Nat × Bytes)) (r : BusResp),
        t = { s with pos := p, locals := ls, rdbWords := ws, strings := bs, resp := r } := by
  have branch_next : ∀ (b : Bool) (x : Nat) (m v : Word) (n : Nat), branch b x m v n s = .next t →
      t = { s with pos := n } ∨ t = { s with pos := s.pos + 1 } := by
    intro b x m v n h
    unfold branch at h
    split at h
    · simp at h
    · split at h
      · exact .inl (by simpa [State.goto] using h.symm)
      · exact .inr (by simpa [State.nextLine] using h.symm)
  cases l with
  | wr w off v => exact .inl ⟨w, off, v, rfl, by simpa [hostLine] using h.symm⟩
  | rd w off x => exact .inr ⟨_, _, _, _, _, by simpa [hostLine, State.setLocal, State.nextLine] using h.symm⟩
  | jmp n => exact .inr ⟨_, _, _, _, _, by simpa [hostLine, State.goto] using h.symm⟩
  | beq x m v n => exact .inr (by rcases branch_next _ _ _ _ _ h with rfl | rfl <;> exact ⟨_, _, _, _, _, rfl⟩)
  | bne x m v n => exact .inr (by rcases branch_next _ _ _ _ _ h with rfl | rfl <;> exact ⟨_, _, _, _, _, rfl⟩)
  | halt => exact .inr ⟨_, _, _, _, _, by simpa [hostLine] using h.symm⟩
  | rdDout n x =>
    simp only [hostLine, readDout] at h
    split at h
    · simp at h
    · split at h
      · exact .inr ⟨_, _, _, _, _, by simpa [State.readNextWord] using h.symm⟩
      · exact .inr ⟨_, _, _, _, _, by simpa [State.takeString, State.nextLine] using h.symm⟩

/-- A step is reset, the core's completion, or a host step (R20, R69, R370). -/
theorem step_cases (s : State) :
    (s.resetIn.headD false = true ∧ step s = .next s.sampled.coreReset) ∨
    (s.resetIn.headD false = false ∧ s.coreTurn = true ∧ step s = completionStep s.sampled) ∨
    (s.resetIn.headD false = false ∧ s.coreTurn = false ∧ step s = hostStep s.sampled) := by
  unfold step agentStep
  cases h1 : s.resetIn.headD false with
  | true => exact .inl ⟨rfl, if_pos rfl⟩
  | false =>
    cases h2 : s.coreTurn with
    | true => exact .inr (.inl ⟨rfl, rfl, rfl⟩)
    | false => exact .inr (.inr ⟨rfl, rfl, rfl⟩)

/-- The core's turn as a test and as a statement (R20, R344, R380). -/
theorem coreTurn_iff (s : State) : s.coreTurn = true ↔ s.st = .busy ∧ s.busyLeft = 0 ∧ s.stalled = false := by
  simp [State.coreTurn, and_assoc]

/-- A command waits for the random port exactly when the port is silent and its completion would draw (R344, U15). -/
theorem stalled_iff (s : State) :
    s.stalled = true ↔ s.portSilent = true ∧ ∃ t, completionStep s = .next t ∧ t.rngPos ≠ s.rngPos := by
  unfold State.stalled State.completionDraws
  rw [Bool.and_eq_true]
  refine and_congr_right fun _ => ?_
  split <;> simp_all

end Sys2Proof.Machine
end

