-- ==== Sys2Proof/Laws/Memory.lean ====
section
/-! SUPPORT. What the memory operations do: reading after a store or a clear, and the canonical form kept by both. -/

namespace Sys2Proof.Machine

@[simp] theorem Memory.read_nil (x : Nat) : Memory.read [] x = 0x00 := rfl

theorem Memory.read_cons (c : Host.Cell) (m : Memory) (x : Nat) :
    Memory.read (c :: m) x = if c.1 = x then c.2 else Memory.read m x := by
  cases c; rfl

/-- An offset no cell lists reads as the unlisted byte. -/
theorem Memory.read_of_not_listed (m : Memory) (x : Nat) (h : ∀ c ∈ m, c.1 ≠ x) : m.read x = 0x00 := by
  induction m with
  | nil => rfl
  | cons c r ih =>
    rw [Memory.read_cons, if_neg (h c (by simp))]
    exact ih fun d hd => h d (by simp [hd])

/-- Reading through an append: the first part decides where it lists the offset. -/
theorem Memory.read_append_of_not_listed (m n : Memory) (x : Nat) (h : ∀ c ∈ m, c.1 ≠ x) :
    Memory.read (m ++ n) x = Memory.read n x := by
  induction m with
  | nil => rfl
  | cons c r ih =>
    rw [List.cons_append, Memory.read_cons, if_neg (h c (by simp))]
    exact ih fun d hd => h d (by simp [hd])

theorem Memory.read_append_left (m n : Memory) (x : Nat) (h : ∀ c ∈ n, c.1 ≠ x) :
    Memory.read (m ++ n) x = Memory.read m x := by
  induction m with
  | nil => simpa using Memory.read_of_not_listed n x h
  | cons c r ih => rw [List.cons_append, Memory.read_cons, Memory.read_cons, ih]

/-- A filter on offsets does not change what a kept offset reads. -/
theorem Memory.read_filter (m : Memory) (p : Nat → Bool) (x : Nat) (h : p x = true) :
    Memory.read (m.filter fun c => p c.1) x = m.read x := by
  induction m with
  | nil => rfl
  | cons c r ih =>
    by_cases hc : p c.1 = true
    · rw [List.filter_cons_of_pos (by simpa using hc), Memory.read_cons, Memory.read_cons, ih]
    · rw [List.filter_cons_of_neg (by simpa using hc), ih, Memory.read_cons, if_neg]
      rintro rfl
      exact hc h

/-- Every cell of a stored string lies in its range and is not the unlisted byte. -/
theorem mem_cellsOf {a : Nat} {v : Bytes} {c : Host.Cell} (h : c ∈ cellsOf a v) :
    a ≤ c.1 ∧ c.1 < a + v.length ∧ c.2 ≠ unlistedByte := by
  induction v generalizing a with
  | nil => simp [cellsOf] at h
  | cons x r ih =>
    simp only [cellsOf] at h
    split at h
    · obtain ⟨h1, h2, h3⟩ := ih h
      exact ⟨by omega, by simp only [List.length_cons]; omega, h3⟩
    · rename_i hx
      rcases List.mem_cons.mp h with rfl | h
      · exact ⟨Nat.le_refl _, by simp, hx⟩
      · obtain ⟨h1, h2, h3⟩ := ih h
        exact ⟨by omega, by simp only [List.length_cons]; omega, h3⟩

theorem Memory.read_cellsOf (a : Nat) (v : Bytes) (x : Nat) (h : a ≤ x) :
    Memory.read (cellsOf a v) x = v.getD (x - a) 0x00 := by
  induction v generalizing a with
  | nil => simp [cellsOf]
  | cons b r ih =>
    have hrec : x ≠ a → Memory.read (cellsOf (a + 1) r) x = (b :: r).getD (x - a) 0x00 := by
      intro hx
      rw [ih (a + 1) (by omega), show x - a = (x - (a + 1)) + 1 by omega]
      rfl
    simp only [cellsOf]
    split
    · rename_i hb
      by_cases hx : x = a
      · subst hx
        rw [Memory.read_of_not_listed]
        · simp [hb, unlistedByte]
        · intro c hc
          have := (mem_cellsOf hc).1
          omega
      · exact hrec hx
    · by_cases hx : x = a
      · subst hx
        simp [Memory.read]
      · rw [Memory.read, if_neg (Ne.symm hx)]
        exact hrec hx

/-- A store decides the bytes of its range and no other. -/
theorem Memory.read_store (m : Memory) (a : Nat) (v : Bytes) (x : Nat) :
    (Memory.store m a v).read x = if a ≤ x ∧ x < a + v.length then v.getD (x - a) 0x00 else m.read x := by
  unfold Memory.store
  rw [List.append_assoc]
  by_cases hx : x < a
  · rw [if_neg (by omega), Memory.read_append_left]
    · exact Memory.read_filter m (fun y => decide (y < a)) x (by simpa using hx)
    · intro c hc
      rcases List.mem_append.mp hc with h | h
      · have := (mem_cellsOf h).1
        omega
      · have := (List.mem_filter.mp h).2
        simp only [decide_eq_true_eq] at this
        omega
  · rw [Memory.read_append_of_not_listed _ _ _ (fun c hc => by
      have := (List.mem_filter.mp hc).2
      simp only [decide_eq_true_eq] at this
      omega)]
    by_cases hr : x < a + v.length
    · rw [if_pos ⟨by omega, hr⟩, Memory.read_append_left _ _ _ (fun c hc => by
        have := (List.mem_filter.mp hc).2
        simp only [decide_eq_true_eq] at this
        omega)]
      exact Memory.read_cellsOf a v x (by omega)
    · rw [if_neg (by omega), Memory.read_append_of_not_listed _ _ _ (fun c hc => by
        have := (mem_cellsOf hc).2.1
        omega)]
      exact Memory.read_filter m (fun y => decide (a + v.length ≤ y)) x (by simp; omega)

/-- A clear zeroes the bytes of its range and no other. -/
theorem Memory.read_clear (m : Memory) (a n x : Nat) :
    (Memory.clear m a n).read x = if a ≤ x ∧ x < a + n then 0x00 else m.read x := by
  unfold Memory.clear
  by_cases hx : a ≤ x ∧ x < a + n
  · rw [if_pos hx, Memory.read_of_not_listed]
    intro c hc
    have := (List.mem_filter.mp hc).2
    simp only [decide_eq_true_eq] at this
    omega
  · rw [if_neg hx]
    exact Memory.read_filter m (fun y => decide (y < a ∨ a + n ≤ y)) x (by simp; omega)

@[simp] theorem Memory.readBytes_length (m : Memory) (a n : Nat) : (m.readBytes a n).length = n := by
  simp [Memory.readBytes]

theorem Memory.readBytes_getD (m : Memory) (a n k : Nat) (h : k < n) : (m.readBytes a n).getD k 0 = m.read (a + k) := by
  simp [Memory.readBytes, h]

/-- Memories that read alike over a range give the same bytes. -/
theorem Memory.readBytes_congr (m m' : Memory) (a n : Nat) (h : ∀ k, k < n → m.read (a + k) = m'.read (a + k)) :
    m.readBytes a n = m'.readBytes a n := by
  unfold Memory.readBytes
  exact List.map_congr_left fun k hk => h k (by simpa using hk)

/-! ## The canonical form -/

/-- The canonical form as a pairwise order of offsets and no unlisted byte. -/
theorem Memory.wf_iff (m : Memory) :
    m.wf = true ↔ m.Pairwise (fun c d => c.1 < d.1) ∧ ∀ c ∈ m, c.2 ≠ unlistedByte := by
  have hr : ∀ m : Memory, m.rising = true ↔ m.Pairwise (fun c d => c.1 < d.1) := by
    intro m
    induction m with
    | nil => simp [Memory.rising]
    | cons c r ih =>
      cases r with
      | nil => simp [Memory.rising]
      | cons d t =>
        simp only [Memory.rising, Bool.and_eq_true, decide_eq_true_eq, ih, List.pairwise_cons]
        constructor
        · rintro ⟨h, h1, h2⟩
          refine ⟨?_, h1, h2⟩
          intro e he
          rcases List.mem_cons.mp he with rfl | he
          · exact h
          · exact Nat.lt_trans h (h1 e he)
        · rintro ⟨h, h1, h2⟩
          exact ⟨h d (by simp), h1, h2⟩
  simp [Memory.wf, hr]

theorem pairwise_cellsOf (a : Nat) (v : Bytes) : (cellsOf a v).Pairwise (fun c d => c.1 < d.1) := by
  induction v generalizing a with
  | nil => simp [cellsOf]
  | cons b r ih =>
    simp only [cellsOf]
    split
    · exact ih _
    · refine List.pairwise_cons.mpr ⟨fun c hc => ?_, ih _⟩
      have := (mem_cellsOf hc).1
      omega

/-- A store keeps the canonical form. -/
theorem Memory.wf_store (m : Memory) (a : Nat) (v : Bytes) (h : m.wf = true) : (Memory.store m a v).wf = true := by
  rw [Memory.wf_iff] at h ⊢
  obtain ⟨h1, h2⟩ := h
  unfold Memory.store
  constructor
  · refine List.pairwise_append.mpr ⟨List.pairwise_append.mpr ⟨h1.filter _, pairwise_cellsOf a v, ?_⟩, h1.filter _, ?_⟩
    · intro c hc d hd
      have h3 := (List.mem_filter.mp hc).2
      have h4 := (mem_cellsOf hd).1
      simp only [decide_eq_true_eq] at h3
      omega
    · intro c hc d hd
      have h4 := (List.mem_filter.mp hd).2
      simp only [decide_eq_true_eq] at h4
      rcases List.mem_append.mp hc with hc | hc
      · have h3 := (List.mem_filter.mp hc).2
        simp only [decide_eq_true_eq] at h3
        omega
      · have h3 := (mem_cellsOf hc).2.1
        omega
  · intro c hc
    rcases List.mem_append.mp hc with hc | hc
    · rcases List.mem_append.mp hc with hc | hc
      · exact h2 c (List.mem_of_mem_filter hc)
      · exact (mem_cellsOf hc).2.2
    · exact h2 c (List.mem_of_mem_filter hc)

/-- A clear keeps the canonical form. -/
theorem Memory.wf_clear (m : Memory) (a n : Nat) (h : m.wf = true) : (Memory.clear m a n).wf = true := by
  rw [Memory.wf_iff] at h ⊢
  exact ⟨h.1.filter _, fun c hc => h.2 c (List.mem_of_mem_filter hc)⟩

/-- The cells of a store are old ones or lie in its range. -/
theorem Memory.mem_store {m : Memory} {a : Nat} {v : Bytes} {c : Host.Cell} (h : c ∈ Memory.store m a v) :
    c ∈ m ∨ (a ≤ c.1 ∧ c.1 < a + v.length) := by
  unfold Memory.store at h
  rcases List.mem_append.mp h with h | h
  · rcases List.mem_append.mp h with h | h
    · exact .inl (List.mem_of_mem_filter h)
    · exact .inr ⟨(mem_cellsOf h).1, (mem_cellsOf h).2.1⟩
  · exact .inl (List.mem_of_mem_filter h)

/-- The cells of a clear are old ones. -/
theorem Memory.mem_clear {m : Memory} {a n : Nat} {c : Host.Cell} (h : c ∈ Memory.clear m a n) : c ∈ m :=
  List.mem_of_mem_filter h

/-- The memory after reset is canonical: nothing is listed (R48). -/
theorem State.reset_mem_wf : State.reset.mem.wf = true := rfl

/-- Every operation that changes memory is a store, or a clear of DOUT followed by a store: DOUT after it. -/
theorem State.setDout_read (s : State) (v : Bytes) (x : Nat) (h : v.length ≤ s.doutMax) :
    (s.setDout v).mem.read x =
      if doutBase ≤ x ∧ x < doutBase + s.doutMax then v.getD (x - doutBase) 0x00 else s.mem.read x := by
  have ht : v.take s.doutMax = v := List.take_of_length_le h
  show (Memory.store (Memory.clear s.mem doutBase s.doutMax) doutBase (v.take s.doutMax)).read x = _
  rw [ht, Memory.read_store, Memory.read_clear]
  by_cases h1 : doutBase ≤ x ∧ x < doutBase + v.length
  · rw [if_pos h1, if_pos (by omega)]
  · rw [if_neg h1]
    by_cases h2 : doutBase ≤ x ∧ x < doutBase + s.doutMax
    · rw [if_pos h2, if_pos h2, List.getD_eq_default _ _ (by omega)]
    · rw [if_neg h2, if_neg h2]

/-- The memory `setDout` leaves is canonical. -/
theorem State.setDout_wf (s : State) (v : Bytes) (h : s.mem.wf = true) : (s.setDout v).mem.wf = true :=
  Memory.wf_store _ _ _ (Memory.wf_clear _ _ _ h)

end Sys2Proof.Machine
end

