-- ==== Sys2Proof/Laws/State.lean ====
section
/-! SUPPORT. One lemma per field of the state per named update of it, so that no proof unfolds a record update. -/

namespace Sys2Proof.Machine

/-! ## setDout -/

@[simp] theorem State.setDout_st (s : State) (v : Bytes) : (s.setDout v).st = s.st := rfl
@[simp] theorem State.setDout_vfail (s : State) (v : Bytes) : (s.setDout v).vfail = s.vfail := rfl
@[simp] theorem State.setDout_parok (s : State) (v : Bytes) : (s.setDout v).parok = s.parok := rfl
@[simp] theorem State.setDout_irqPending (s : State) (v : Bytes) : (s.setDout v).irqPending = s.irqPending := rfl
@[simp] theorem State.setDout_err (s : State) (v : Bytes) : (s.setDout v).err = s.err := rfl
@[simp] theorem State.setDout_cmd (s : State) (v : Bytes) : (s.setDout v).cmd = s.cmd := rfl
@[simp] theorem State.setDout_ie (s : State) (v : Bytes) : (s.setDout v).ie = s.ie := rfl
@[simp] theorem State.setDout_atc (s : State) (v : Bytes) : (s.setDout v).atc = s.atc := rfl
@[simp] theorem State.setDout_key0Len (s : State) (v : Bytes) : (s.setDout v).key0Len = s.key0Len := rfl
@[simp] theorem State.setDout_key1Len (s : State) (v : Bytes) : (s.setDout v).key1Len = s.key1Len := rfl
@[simp] theorem State.setDout_ivLen (s : State) (v : Bytes) : (s.setDout v).ivLen = s.ivLen := rfl
@[simp] theorem State.setDout_ksnLen (s : State) (v : Bytes) : (s.setDout v).ksnLen = s.ksnLen := rfl
@[simp] theorem State.setDout_unLen (s : State) (v : Bytes) : (s.setDout v).unLen = s.unLen := rfl
@[simp] theorem State.setDout_aux0Len (s : State) (v : Bytes) : (s.setDout v).aux0Len = s.aux0Len := rfl
@[simp] theorem State.setDout_aux1Len (s : State) (v : Bytes) : (s.setDout v).aux1Len = s.aux1Len := rfl
@[simp] theorem State.setDout_aux2Len (s : State) (v : Bytes) : (s.setDout v).aux2Len = s.aux2Len := rfl
@[simp] theorem State.setDout_panLen (s : State) (v : Bytes) : (s.setDout v).panLen = s.panLen := rfl
@[simp] theorem State.setDout_psnLen (s : State) (v : Bytes) : (s.setDout v).psnLen = s.psnLen := rfl
@[simp] theorem State.setDout_pinLen (s : State) (v : Bytes) : (s.setDout v).pinLen = s.pinLen := rfl
@[simp] theorem State.setDout_dinLen (s : State) (v : Bytes) : (s.setDout v).dinLen = s.dinLen := rfl
@[simp] theorem State.setDout_doutLen (s : State) (v : Bytes) : (s.setDout v).doutLen = BitVec.ofNat 16 v.length := rfl
@[simp] theorem State.setDout_mem (s : State) (v : Bytes) : (s.setDout v).mem = Memory.store (Memory.clear s.mem doutBase s.doutMax) doutBase (v.take s.doutMax) := rfl
@[simp] theorem State.setDout_script (s : State) (v : Bytes) : (s.setDout v).script = s.script := rfl
@[simp] theorem State.setDout_pos (s : State) (v : Bytes) : (s.setDout v).pos = s.pos := rfl
@[simp] theorem State.setDout_locals (s : State) (v : Bytes) : (s.setDout v).locals = s.locals := rfl
@[simp] theorem State.setDout_rdbWords (s : State) (v : Bytes) : (s.setDout v).rdbWords = s.rdbWords := rfl
@[simp] theorem State.setDout_strings (s : State) (v : Bytes) : (s.setDout v).strings = s.strings := rfl
@[simp] theorem State.setDout_resp (s : State) (v : Bytes) : (s.setDout v).resp = s.resp := rfl
@[simp] theorem State.setDout_latencies (s : State) (v : Bytes) : (s.setDout v).latencies = s.latencies := rfl
@[simp] theorem State.setDout_busyLeft (s : State) (v : Bytes) : (s.setDout v).busyLeft = s.busyLeft := rfl
@[simp] theorem State.setDout_rngQueue (s : State) (v : Bytes) : (s.setDout v).rngQueue = s.rngQueue := rfl
@[simp] theorem State.setDout_rngPos (s : State) (v : Bytes) : (s.setDout v).rngPos = s.rngPos := rfl
@[simp] theorem State.setDout_rngSilent (s : State) (v : Bytes) : (s.setDout v).rngSilent = s.rngSilent := rfl
@[simp] theorem State.setDout_rngDown (s : State) (v : Bytes) : (s.setDout v).rngDown = s.rngDown := rfl
@[simp] theorem State.setDout_resetIn (s : State) (v : Bytes) : (s.setDout v).resetIn = s.resetIn := rfl
@[simp] theorem State.setDout_dataSize (s : State) (v : Bytes) : (s.setDout v).dataSize = s.dataSize := rfl

/-! ## complete -/

@[simp] theorem State.complete_st (s : State) (q : SeqState) (e : BitVec 8) (vf pk : Bool) (v : Bytes) : (s.complete q e vf pk v).st = q := rfl
@[simp] theorem State.complete_vfail (s : State) (q : SeqState) (e : BitVec 8) (vf pk : Bool) (v : Bytes) : (s.complete q e vf pk v).vfail = vf := rfl
@[simp] theorem State.complete_parok (s : State) (q : SeqState) (e : BitVec 8) (vf pk : Bool) (v : Bytes) : (s.complete q e vf pk v).parok = pk := rfl
@[simp] theorem State.complete_irqPending (s : State) (q : SeqState) (e : BitVec 8) (vf pk : Bool) (v : Bytes) : (s.complete q e vf pk v).irqPending = true := rfl
@[simp] theorem State.complete_err (s : State) (q : SeqState) (e : BitVec 8) (vf pk : Bool) (v : Bytes) : (s.complete q e vf pk v).err = e := rfl
@[simp] theorem State.complete_cmd (s : State) (q : SeqState) (e : BitVec 8) (vf pk : Bool) (v : Bytes) : (s.complete q e vf pk v).cmd = s.cmd := rfl
@[simp] theorem State.complete_ie (s : State) (q : SeqState) (e : BitVec 8) (vf pk : Bool) (v : Bytes) : (s.complete q e vf pk v).ie = s.ie := rfl
@[simp] theorem State.complete_atc (s : State) (q : SeqState) (e : BitVec 8) (vf pk : Bool) (v : Bytes) : (s.complete q e vf pk v).atc = s.atc := rfl
@[simp] theorem State.complete_key0Len (s : State) (q : SeqState) (e : BitVec 8) (vf pk : Bool) (v : Bytes) : (s.complete q e vf pk v).key0Len = s.key0Len := rfl
@[simp] theorem State.complete_key1Len (s : State) (q : SeqState) (e : BitVec 8) (vf pk : Bool) (v : Bytes) : (s.complete q e vf pk v).key1Len = s.key1Len := rfl
@[simp] theorem State.complete_ivLen (s : State) (q : SeqState) (e : BitVec 8) (vf pk : Bool) (v : Bytes) : (s.complete q e vf pk v).ivLen = s.ivLen := rfl
@[simp] theorem State.complete_ksnLen (s : State) (q : SeqState) (e : BitVec 8) (vf pk : Bool) (v : Bytes) : (s.complete q e vf pk v).ksnLen = s.ksnLen := rfl
@[simp] theorem State.complete_unLen (s : State) (q : SeqState) (e : BitVec 8) (vf pk : Bool) (v : Bytes) : (s.complete q e vf pk v).unLen = s.unLen := rfl
@[simp] theorem State.complete_aux0Len (s : State) (q : SeqState) (e : BitVec 8) (vf pk : Bool) (v : Bytes) : (s.complete q e vf pk v).aux0Len = s.aux0Len := rfl
@[simp] theorem State.complete_aux1Len (s : State) (q : SeqState) (e : BitVec 8) (vf pk : Bool) (v : Bytes) : (s.complete q e vf pk v).aux1Len = s.aux1Len := rfl
@[simp] theorem State.complete_aux2Len (s : State) (q : SeqState) (e : BitVec 8) (vf pk : Bool) (v : Bytes) : (s.complete q e vf pk v).aux2Len = s.aux2Len := rfl
@[simp] theorem State.complete_panLen (s : State) (q : SeqState) (e : BitVec 8) (vf pk : Bool) (v : Bytes) : (s.complete q e vf pk v).panLen = s.panLen := rfl
@[simp] theorem State.complete_psnLen (s : State) (q : SeqState) (e : BitVec 8) (vf pk : Bool) (v : Bytes) : (s.complete q e vf pk v).psnLen = s.psnLen := rfl
@[simp] theorem State.complete_pinLen (s : State) (q : SeqState) (e : BitVec 8) (vf pk : Bool) (v : Bytes) : (s.complete q e vf pk v).pinLen = s.pinLen := rfl
@[simp] theorem State.complete_dinLen (s : State) (q : SeqState) (e : BitVec 8) (vf pk : Bool) (v : Bytes) : (s.complete q e vf pk v).dinLen = s.dinLen := rfl
@[simp] theorem State.complete_doutLen (s : State) (q : SeqState) (e : BitVec 8) (vf pk : Bool) (v : Bytes) : (s.complete q e vf pk v).doutLen = BitVec.ofNat 16 v.length := rfl
@[simp] theorem State.complete_mem (s : State) (q : SeqState) (e : BitVec 8) (vf pk : Bool) (v : Bytes) : (s.complete q e vf pk v).mem = (s.setDout v).mem := rfl
@[simp] theorem State.complete_script (s : State) (q : SeqState) (e : BitVec 8) (vf pk : Bool) (v : Bytes) : (s.complete q e vf pk v).script = s.script := rfl
@[simp] theorem State.complete_pos (s : State) (q : SeqState) (e : BitVec 8) (vf pk : Bool) (v : Bytes) : (s.complete q e vf pk v).pos = s.pos := rfl
@[simp] theorem State.complete_locals (s : State) (q : SeqState) (e : BitVec 8) (vf pk : Bool) (v : Bytes) : (s.complete q e vf pk v).locals = s.locals := rfl
@[simp] theorem State.complete_rdbWords (s : State) (q : SeqState) (e : BitVec 8) (vf pk : Bool) (v : Bytes) : (s.complete q e vf pk v).rdbWords = s.rdbWords := rfl
@[simp] theorem State.complete_strings (s : State) (q : SeqState) (e : BitVec 8) (vf pk : Bool) (v : Bytes) : (s.complete q e vf pk v).strings = s.strings := rfl
@[simp] theorem State.complete_resp (s : State) (q : SeqState) (e : BitVec 8) (vf pk : Bool) (v : Bytes) : (s.complete q e vf pk v).resp = s.resp := rfl
@[simp] theorem State.complete_latencies (s : State) (q : SeqState) (e : BitVec 8) (vf pk : Bool) (v : Bytes) : (s.complete q e vf pk v).latencies = s.latencies := rfl
@[simp] theorem State.complete_busyLeft (s : State) (q : SeqState) (e : BitVec 8) (vf pk : Bool) (v : Bytes) : (s.complete q e vf pk v).busyLeft = s.busyLeft := rfl
@[simp] theorem State.complete_rngQueue (s : State) (q : SeqState) (e : BitVec 8) (vf pk : Bool) (v : Bytes) : (s.complete q e vf pk v).rngQueue = s.rngQueue := rfl
@[simp] theorem State.complete_rngPos (s : State) (q : SeqState) (e : BitVec 8) (vf pk : Bool) (v : Bytes) : (s.complete q e vf pk v).rngPos = s.rngPos := rfl
@[simp] theorem State.complete_rngSilent (s : State) (q : SeqState) (e : BitVec 8) (vf pk : Bool) (v : Bytes) : (s.complete q e vf pk v).rngSilent = s.rngSilent := rfl
@[simp] theorem State.complete_rngDown (s : State) (q : SeqState) (e : BitVec 8) (vf pk : Bool) (v : Bytes) : (s.complete q e vf pk v).rngDown = s.rngDown := rfl
@[simp] theorem State.complete_resetIn (s : State) (q : SeqState) (e : BitVec 8) (vf pk : Bool) (v : Bytes) : (s.complete q e vf pk v).resetIn = s.resetIn := rfl
@[simp] theorem State.complete_dataSize (s : State) (q : SeqState) (e : BitVec 8) (vf pk : Bool) (v : Bytes) : (s.complete q e vf pk v).dataSize = s.dataSize := rfl

/-! ## doneWith -/

@[simp] theorem State.doneWith_st (s : State) (vf pk : Bool) (v : Bytes) : (s.doneWith vf pk v).st = .done := rfl
@[simp] theorem State.doneWith_vfail (s : State) (vf pk : Bool) (v : Bytes) : (s.doneWith vf pk v).vfail = vf := rfl
@[simp] theorem State.doneWith_parok (s : State) (vf pk : Bool) (v : Bytes) : (s.doneWith vf pk v).parok = pk := rfl
@[simp] theorem State.doneWith_irqPending (s : State) (vf pk : Bool) (v : Bytes) : (s.doneWith vf pk v).irqPending = true := rfl
@[simp] theorem State.doneWith_err (s : State) (vf pk : Bool) (v : Bytes) : (s.doneWith vf pk v).err = 0x00 := rfl
@[simp] theorem State.doneWith_cmd (s : State) (vf pk : Bool) (v : Bytes) : (s.doneWith vf pk v).cmd = s.cmd := rfl
@[simp] theorem State.doneWith_ie (s : State) (vf pk : Bool) (v : Bytes) : (s.doneWith vf pk v).ie = s.ie := rfl
@[simp] theorem State.doneWith_atc (s : State) (vf pk : Bool) (v : Bytes) : (s.doneWith vf pk v).atc = s.atc := rfl
@[simp] theorem State.doneWith_key0Len (s : State) (vf pk : Bool) (v : Bytes) : (s.doneWith vf pk v).key0Len = s.key0Len := rfl
@[simp] theorem State.doneWith_key1Len (s : State) (vf pk : Bool) (v : Bytes) : (s.doneWith vf pk v).key1Len = s.key1Len := rfl
@[simp] theorem State.doneWith_ivLen (s : State) (vf pk : Bool) (v : Bytes) : (s.doneWith vf pk v).ivLen = s.ivLen := rfl
@[simp] theorem State.doneWith_ksnLen (s : State) (vf pk : Bool) (v : Bytes) : (s.doneWith vf pk v).ksnLen = s.ksnLen := rfl
@[simp] theorem State.doneWith_unLen (s : State) (vf pk : Bool) (v : Bytes) : (s.doneWith vf pk v).unLen = s.unLen := rfl
@[simp] theorem State.doneWith_aux0Len (s : State) (vf pk : Bool) (v : Bytes) : (s.doneWith vf pk v).aux0Len = s.aux0Len := rfl
@[simp] theorem State.doneWith_aux1Len (s : State) (vf pk : Bool) (v : Bytes) : (s.doneWith vf pk v).aux1Len = s.aux1Len := rfl
@[simp] theorem State.doneWith_aux2Len (s : State) (vf pk : Bool) (v : Bytes) : (s.doneWith vf pk v).aux2Len = s.aux2Len := rfl
@[simp] theorem State.doneWith_panLen (s : State) (vf pk : Bool) (v : Bytes) : (s.doneWith vf pk v).panLen = s.panLen := rfl
@[simp] theorem State.doneWith_psnLen (s : State) (vf pk : Bool) (v : Bytes) : (s.doneWith vf pk v).psnLen = s.psnLen := rfl
@[simp] theorem State.doneWith_pinLen (s : State) (vf pk : Bool) (v : Bytes) : (s.doneWith vf pk v).pinLen = s.pinLen := rfl
@[simp] theorem State.doneWith_dinLen (s : State) (vf pk : Bool) (v : Bytes) : (s.doneWith vf pk v).dinLen = s.dinLen := rfl
@[simp] theorem State.doneWith_doutLen (s : State) (vf pk : Bool) (v : Bytes) : (s.doneWith vf pk v).doutLen = BitVec.ofNat 16 v.length := rfl
@[simp] theorem State.doneWith_mem (s : State) (vf pk : Bool) (v : Bytes) : (s.doneWith vf pk v).mem = (s.setDout v).mem := rfl
@[simp] theorem State.doneWith_script (s : State) (vf pk : Bool) (v : Bytes) : (s.doneWith vf pk v).script = s.script := rfl
@[simp] theorem State.doneWith_pos (s : State) (vf pk : Bool) (v : Bytes) : (s.doneWith vf pk v).pos = s.pos := rfl
@[simp] theorem State.doneWith_locals (s : State) (vf pk : Bool) (v : Bytes) : (s.doneWith vf pk v).locals = s.locals := rfl
@[simp] theorem State.doneWith_rdbWords (s : State) (vf pk : Bool) (v : Bytes) : (s.doneWith vf pk v).rdbWords = s.rdbWords := rfl
@[simp] theorem State.doneWith_strings (s : State) (vf pk : Bool) (v : Bytes) : (s.doneWith vf pk v).strings = s.strings := rfl
@[simp] theorem State.doneWith_resp (s : State) (vf pk : Bool) (v : Bytes) : (s.doneWith vf pk v).resp = s.resp := rfl
@[simp] theorem State.doneWith_latencies (s : State) (vf pk : Bool) (v : Bytes) : (s.doneWith vf pk v).latencies = s.latencies := rfl
@[simp] theorem State.doneWith_busyLeft (s : State) (vf pk : Bool) (v : Bytes) : (s.doneWith vf pk v).busyLeft = s.busyLeft := rfl
@[simp] theorem State.doneWith_rngQueue (s : State) (vf pk : Bool) (v : Bytes) : (s.doneWith vf pk v).rngQueue = s.rngQueue := rfl
@[simp] theorem State.doneWith_rngPos (s : State) (vf pk : Bool) (v : Bytes) : (s.doneWith vf pk v).rngPos = s.rngPos := rfl
@[simp] theorem State.doneWith_rngSilent (s : State) (vf pk : Bool) (v : Bytes) : (s.doneWith vf pk v).rngSilent = s.rngSilent := rfl
@[simp] theorem State.doneWith_rngDown (s : State) (vf pk : Bool) (v : Bytes) : (s.doneWith vf pk v).rngDown = s.rngDown := rfl
@[simp] theorem State.doneWith_resetIn (s : State) (vf pk : Bool) (v : Bytes) : (s.doneWith vf pk v).resetIn = s.resetIn := rfl
@[simp] theorem State.doneWith_dataSize (s : State) (vf pk : Bool) (v : Bytes) : (s.doneWith vf pk v).dataSize = s.dataSize := rfl

/-! ## raised -/

@[simp] theorem State.raised_st (s : State) (k : ErrKind) : (s.raised k).st = .error := rfl
@[simp] theorem State.raised_vfail (s : State) (k : ErrKind) : (s.raised k).vfail = false := rfl
@[simp] theorem State.raised_parok (s : State) (k : ErrKind) : (s.raised k).parok = false := rfl
@[simp] theorem State.raised_irqPending (s : State) (k : ErrKind) : (s.raised k).irqPending = true := rfl
@[simp] theorem State.raised_err (s : State) (k : ErrKind) : (s.raised k).err = k.code := rfl
@[simp] theorem State.raised_cmd (s : State) (k : ErrKind) : (s.raised k).cmd = s.cmd := rfl
@[simp] theorem State.raised_ie (s : State) (k : ErrKind) : (s.raised k).ie = s.ie := rfl
@[simp] theorem State.raised_atc (s : State) (k : ErrKind) : (s.raised k).atc = s.atc := rfl
@[simp] theorem State.raised_key0Len (s : State) (k : ErrKind) : (s.raised k).key0Len = s.key0Len := rfl
@[simp] theorem State.raised_key1Len (s : State) (k : ErrKind) : (s.raised k).key1Len = s.key1Len := rfl
@[simp] theorem State.raised_ivLen (s : State) (k : ErrKind) : (s.raised k).ivLen = s.ivLen := rfl
@[simp] theorem State.raised_ksnLen (s : State) (k : ErrKind) : (s.raised k).ksnLen = s.ksnLen := rfl
@[simp] theorem State.raised_unLen (s : State) (k : ErrKind) : (s.raised k).unLen = s.unLen := rfl
@[simp] theorem State.raised_aux0Len (s : State) (k : ErrKind) : (s.raised k).aux0Len = s.aux0Len := rfl
@[simp] theorem State.raised_aux1Len (s : State) (k : ErrKind) : (s.raised k).aux1Len = s.aux1Len := rfl
@[simp] theorem State.raised_aux2Len (s : State) (k : ErrKind) : (s.raised k).aux2Len = s.aux2Len := rfl
@[simp] theorem State.raised_panLen (s : State) (k : ErrKind) : (s.raised k).panLen = s.panLen := rfl
@[simp] theorem State.raised_psnLen (s : State) (k : ErrKind) : (s.raised k).psnLen = s.psnLen := rfl
@[simp] theorem State.raised_pinLen (s : State) (k : ErrKind) : (s.raised k).pinLen = s.pinLen := rfl
@[simp] theorem State.raised_dinLen (s : State) (k : ErrKind) : (s.raised k).dinLen = s.dinLen := rfl
@[simp] theorem State.raised_doutLen (s : State) (k : ErrKind) : (s.raised k).doutLen = 0 := rfl
@[simp] theorem State.raised_mem (s : State) (k : ErrKind) : (s.raised k).mem = (s.setDout []).mem := rfl
@[simp] theorem State.raised_script (s : State) (k : ErrKind) : (s.raised k).script = s.script := rfl
@[simp] theorem State.raised_pos (s : State) (k : ErrKind) : (s.raised k).pos = s.pos := rfl
@[simp] theorem State.raised_locals (s : State) (k : ErrKind) : (s.raised k).locals = s.locals := rfl
@[simp] theorem State.raised_rdbWords (s : State) (k : ErrKind) : (s.raised k).rdbWords = s.rdbWords := rfl
@[simp] theorem State.raised_strings (s : State) (k : ErrKind) : (s.raised k).strings = s.strings := rfl
@[simp] theorem State.raised_resp (s : State) (k : ErrKind) : (s.raised k).resp = s.resp := rfl
@[simp] theorem State.raised_latencies (s : State) (k : ErrKind) : (s.raised k).latencies = s.latencies := rfl
@[simp] theorem State.raised_busyLeft (s : State) (k : ErrKind) : (s.raised k).busyLeft = s.busyLeft := rfl
@[simp] theorem State.raised_rngQueue (s : State) (k : ErrKind) : (s.raised k).rngQueue = s.rngQueue := rfl
@[simp] theorem State.raised_rngPos (s : State) (k : ErrKind) : (s.raised k).rngPos = s.rngPos := rfl
@[simp] theorem State.raised_rngSilent (s : State) (k : ErrKind) : (s.raised k).rngSilent = s.rngSilent := rfl
@[simp] theorem State.raised_rngDown (s : State) (k : ErrKind) : (s.raised k).rngDown = s.rngDown := rfl
@[simp] theorem State.raised_resetIn (s : State) (k : ErrKind) : (s.raised k).resetIn = s.resetIn := rfl
@[simp] theorem State.raised_dataSize (s : State) (k : ErrKind) : (s.raised k).dataSize = s.dataSize := rfl

/-! ## afterDraws -/

@[simp] theorem State.afterDraws_st (s : State) (n : Nat) : (s.afterDraws n).st = s.st := rfl
@[simp] theorem State.afterDraws_vfail (s : State) (n : Nat) : (s.afterDraws n).vfail = s.vfail := rfl
@[simp] theorem State.afterDraws_parok (s : State) (n : Nat) : (s.afterDraws n).parok = s.parok := rfl
@[simp] theorem State.afterDraws_irqPending (s : State) (n : Nat) : (s.afterDraws n).irqPending = s.irqPending := rfl
@[simp] theorem State.afterDraws_err (s : State) (n : Nat) : (s.afterDraws n).err = s.err := rfl
@[simp] theorem State.afterDraws_cmd (s : State) (n : Nat) : (s.afterDraws n).cmd = s.cmd := rfl
@[simp] theorem State.afterDraws_ie (s : State) (n : Nat) : (s.afterDraws n).ie = s.ie := rfl
@[simp] theorem State.afterDraws_atc (s : State) (n : Nat) : (s.afterDraws n).atc = s.atc := rfl
@[simp] theorem State.afterDraws_key0Len (s : State) (n : Nat) : (s.afterDraws n).key0Len = s.key0Len := rfl
@[simp] theorem State.afterDraws_key1Len (s : State) (n : Nat) : (s.afterDraws n).key1Len = s.key1Len := rfl
@[simp] theorem State.afterDraws_ivLen (s : State) (n : Nat) : (s.afterDraws n).ivLen = s.ivLen := rfl
@[simp] theorem State.afterDraws_ksnLen (s : State) (n : Nat) : (s.afterDraws n).ksnLen = s.ksnLen := rfl
@[simp] theorem State.afterDraws_unLen (s : State) (n : Nat) : (s.afterDraws n).unLen = s.unLen := rfl
@[simp] theorem State.afterDraws_aux0Len (s : State) (n : Nat) : (s.afterDraws n).aux0Len = s.aux0Len := rfl
@[simp] theorem State.afterDraws_aux1Len (s : State) (n : Nat) : (s.afterDraws n).aux1Len = s.aux1Len := rfl
@[simp] theorem State.afterDraws_aux2Len (s : State) (n : Nat) : (s.afterDraws n).aux2Len = s.aux2Len := rfl
@[simp] theorem State.afterDraws_panLen (s : State) (n : Nat) : (s.afterDraws n).panLen = s.panLen := rfl
@[simp] theorem State.afterDraws_psnLen (s : State) (n : Nat) : (s.afterDraws n).psnLen = s.psnLen := rfl
@[simp] theorem State.afterDraws_pinLen (s : State) (n : Nat) : (s.afterDraws n).pinLen = s.pinLen := rfl
@[simp] theorem State.afterDraws_dinLen (s : State) (n : Nat) : (s.afterDraws n).dinLen = s.dinLen := rfl
@[simp] theorem State.afterDraws_doutLen (s : State) (n : Nat) : (s.afterDraws n).doutLen = s.doutLen := rfl
@[simp] theorem State.afterDraws_mem (s : State) (n : Nat) : (s.afterDraws n).mem = s.mem := rfl
@[simp] theorem State.afterDraws_script (s : State) (n : Nat) : (s.afterDraws n).script = s.script := rfl
@[simp] theorem State.afterDraws_pos (s : State) (n : Nat) : (s.afterDraws n).pos = s.pos := rfl
@[simp] theorem State.afterDraws_locals (s : State) (n : Nat) : (s.afterDraws n).locals = s.locals := rfl
@[simp] theorem State.afterDraws_rdbWords (s : State) (n : Nat) : (s.afterDraws n).rdbWords = s.rdbWords := rfl
@[simp] theorem State.afterDraws_strings (s : State) (n : Nat) : (s.afterDraws n).strings = s.strings := rfl
@[simp] theorem State.afterDraws_resp (s : State) (n : Nat) : (s.afterDraws n).resp = s.resp := rfl
@[simp] theorem State.afterDraws_latencies (s : State) (n : Nat) : (s.afterDraws n).latencies = s.latencies := rfl
@[simp] theorem State.afterDraws_busyLeft (s : State) (n : Nat) : (s.afterDraws n).busyLeft = s.busyLeft := rfl
@[simp] theorem State.afterDraws_rngQueue (s : State) (n : Nat) : (s.afterDraws n).rngQueue = s.rngQueue.drop n := rfl
@[simp] theorem State.afterDraws_rngPos (s : State) (n : Nat) : (s.afterDraws n).rngPos = s.rngPos + n := rfl
@[simp] theorem State.afterDraws_rngSilent (s : State) (n : Nat) : (s.afterDraws n).rngSilent = s.rngSilent := rfl
@[simp] theorem State.afterDraws_rngDown (s : State) (n : Nat) : (s.afterDraws n).rngDown = s.rngDown := rfl
@[simp] theorem State.afterDraws_resetIn (s : State) (n : Nat) : (s.afterDraws n).resetIn = s.resetIn := rfl
@[simp] theorem State.afterDraws_dataSize (s : State) (n : Nat) : (s.afterDraws n).dataSize = s.dataSize := rfl

/-! ## acked -/

@[simp] theorem State.acked_st (s : State) : (s.acked).st = .idle := rfl
@[simp] theorem State.acked_vfail (s : State) : (s.acked).vfail = false := rfl
@[simp] theorem State.acked_parok (s : State) : (s.acked).parok = false := rfl
@[simp] theorem State.acked_irqPending (s : State) : (s.acked).irqPending = false := rfl
@[simp] theorem State.acked_err (s : State) : (s.acked).err = 0x00 := rfl
@[simp] theorem State.acked_cmd (s : State) : (s.acked).cmd = s.cmd := rfl
@[simp] theorem State.acked_ie (s : State) : (s.acked).ie = s.ie := rfl
@[simp] theorem State.acked_atc (s : State) : (s.acked).atc = s.atc := rfl
@[simp] theorem State.acked_key0Len (s : State) : (s.acked).key0Len = s.key0Len := rfl
@[simp] theorem State.acked_key1Len (s : State) : (s.acked).key1Len = s.key1Len := rfl
@[simp] theorem State.acked_ivLen (s : State) : (s.acked).ivLen = s.ivLen := rfl
@[simp] theorem State.acked_ksnLen (s : State) : (s.acked).ksnLen = s.ksnLen := rfl
@[simp] theorem State.acked_unLen (s : State) : (s.acked).unLen = s.unLen := rfl
@[simp] theorem State.acked_aux0Len (s : State) : (s.acked).aux0Len = s.aux0Len := rfl
@[simp] theorem State.acked_aux1Len (s : State) : (s.acked).aux1Len = s.aux1Len := rfl
@[simp] theorem State.acked_aux2Len (s : State) : (s.acked).aux2Len = s.aux2Len := rfl
@[simp] theorem State.acked_panLen (s : State) : (s.acked).panLen = s.panLen := rfl
@[simp] theorem State.acked_psnLen (s : State) : (s.acked).psnLen = s.psnLen := rfl
@[simp] theorem State.acked_pinLen (s : State) : (s.acked).pinLen = s.pinLen := rfl
@[simp] theorem State.acked_dinLen (s : State) : (s.acked).dinLen = s.dinLen := rfl
@[simp] theorem State.acked_doutLen (s : State) : (s.acked).doutLen = s.doutLen := rfl
@[simp] theorem State.acked_mem (s : State) : (s.acked).mem = s.mem := rfl
@[simp] theorem State.acked_script (s : State) : (s.acked).script = s.script := rfl
@[simp] theorem State.acked_pos (s : State) : (s.acked).pos = s.pos := rfl
@[simp] theorem State.acked_locals (s : State) : (s.acked).locals = s.locals := rfl
@[simp] theorem State.acked_rdbWords (s : State) : (s.acked).rdbWords = s.rdbWords := rfl
@[simp] theorem State.acked_strings (s : State) : (s.acked).strings = s.strings := rfl
@[simp] theorem State.acked_resp (s : State) : (s.acked).resp = s.resp := rfl
@[simp] theorem State.acked_latencies (s : State) : (s.acked).latencies = s.latencies := rfl
@[simp] theorem State.acked_busyLeft (s : State) : (s.acked).busyLeft = s.busyLeft := rfl
@[simp] theorem State.acked_rngQueue (s : State) : (s.acked).rngQueue = s.rngQueue := rfl
@[simp] theorem State.acked_rngPos (s : State) : (s.acked).rngPos = s.rngPos := rfl
@[simp] theorem State.acked_rngSilent (s : State) : (s.acked).rngSilent = s.rngSilent := rfl
@[simp] theorem State.acked_rngDown (s : State) : (s.acked).rngDown = s.rngDown := rfl
@[simp] theorem State.acked_resetIn (s : State) : (s.acked).resetIn = s.resetIn := rfl
@[simp] theorem State.acked_dataSize (s : State) : (s.acked).dataSize = s.dataSize := rfl

/-! ## started -/

@[simp] theorem State.started_st (s : State) : (s.started).st = .busy := rfl
@[simp] theorem State.started_vfail (s : State) : (s.started).vfail = false := rfl
@[simp] theorem State.started_parok (s : State) : (s.started).parok = false := rfl
@[simp] theorem State.started_irqPending (s : State) : (s.started).irqPending = false := rfl
@[simp] theorem State.started_err (s : State) : (s.started).err = 0x00 := rfl
@[simp] theorem State.started_cmd (s : State) : (s.started).cmd = s.cmd := rfl
@[simp] theorem State.started_ie (s : State) : (s.started).ie = s.ie := rfl
@[simp] theorem State.started_atc (s : State) : (s.started).atc = s.atc := rfl
@[simp] theorem State.started_key0Len (s : State) : (s.started).key0Len = s.key0Len := rfl
@[simp] theorem State.started_key1Len (s : State) : (s.started).key1Len = s.key1Len := rfl
@[simp] theorem State.started_ivLen (s : State) : (s.started).ivLen = s.ivLen := rfl
@[simp] theorem State.started_ksnLen (s : State) : (s.started).ksnLen = s.ksnLen := rfl
@[simp] theorem State.started_unLen (s : State) : (s.started).unLen = s.unLen := rfl
@[simp] theorem State.started_aux0Len (s : State) : (s.started).aux0Len = s.aux0Len := rfl
@[simp] theorem State.started_aux1Len (s : State) : (s.started).aux1Len = s.aux1Len := rfl
@[simp] theorem State.started_aux2Len (s : State) : (s.started).aux2Len = s.aux2Len := rfl
@[simp] theorem State.started_panLen (s : State) : (s.started).panLen = s.panLen := rfl
@[simp] theorem State.started_psnLen (s : State) : (s.started).psnLen = s.psnLen := rfl
@[simp] theorem State.started_pinLen (s : State) : (s.started).pinLen = s.pinLen := rfl
@[simp] theorem State.started_dinLen (s : State) : (s.started).dinLen = s.dinLen := rfl
@[simp] theorem State.started_doutLen (s : State) : (s.started).doutLen = 0 := rfl
@[simp] theorem State.started_mem (s : State) : (s.started).mem = (s.setDout []).mem := rfl
@[simp] theorem State.started_script (s : State) : (s.started).script = s.script := rfl
@[simp] theorem State.started_pos (s : State) : (s.started).pos = s.pos := rfl
@[simp] theorem State.started_locals (s : State) : (s.started).locals = s.locals := rfl
@[simp] theorem State.started_rdbWords (s : State) : (s.started).rdbWords = s.rdbWords := rfl
@[simp] theorem State.started_strings (s : State) : (s.started).strings = s.strings := rfl
@[simp] theorem State.started_resp (s : State) : (s.started).resp = s.resp := rfl
@[simp] theorem State.started_latencies (s : State) : (s.started).latencies = s.latencies := rfl
@[simp] theorem State.started_busyLeft (s : State) : (s.started).busyLeft = s.busyLeft := rfl
@[simp] theorem State.started_rngQueue (s : State) : (s.started).rngQueue = s.rngQueue := rfl
@[simp] theorem State.started_rngPos (s : State) : (s.started).rngPos = s.rngPos := rfl
@[simp] theorem State.started_rngSilent (s : State) : (s.started).rngSilent = s.rngSilent := rfl
@[simp] theorem State.started_rngDown (s : State) : (s.started).rngDown = s.rngDown := rfl
@[simp] theorem State.started_resetIn (s : State) : (s.started).resetIn = s.resetIn := rfl
@[simp] theorem State.started_dataSize (s : State) : (s.started).dataSize = s.dataSize := rfl

/-! ## coreReset -/

@[simp] theorem State.coreReset_st (s : State) : (s.coreReset).st = .idle := rfl
@[simp] theorem State.coreReset_vfail (s : State) : (s.coreReset).vfail = false := rfl
@[simp] theorem State.coreReset_parok (s : State) : (s.coreReset).parok = false := rfl
@[simp] theorem State.coreReset_irqPending (s : State) : (s.coreReset).irqPending = false := rfl
@[simp] theorem State.coreReset_err (s : State) : (s.coreReset).err = 0x00 := rfl
@[simp] theorem State.coreReset_cmd (s : State) : (s.coreReset).cmd = 0 := rfl
@[simp] theorem State.coreReset_ie (s : State) : (s.coreReset).ie = false := rfl
@[simp] theorem State.coreReset_atc (s : State) : (s.coreReset).atc = 0 := rfl
@[simp] theorem State.coreReset_key0Len (s : State) : (s.coreReset).key0Len = 0 := rfl
@[simp] theorem State.coreReset_key1Len (s : State) : (s.coreReset).key1Len = 0 := rfl
@[simp] theorem State.coreReset_ivLen (s : State) : (s.coreReset).ivLen = 0 := rfl
@[simp] theorem State.coreReset_ksnLen (s : State) : (s.coreReset).ksnLen = 0 := rfl
@[simp] theorem State.coreReset_unLen (s : State) : (s.coreReset).unLen = 0 := rfl
@[simp] theorem State.coreReset_aux0Len (s : State) : (s.coreReset).aux0Len = 0 := rfl
@[simp] theorem State.coreReset_aux1Len (s : State) : (s.coreReset).aux1Len = 0 := rfl
@[simp] theorem State.coreReset_aux2Len (s : State) : (s.coreReset).aux2Len = 0 := rfl
@[simp] theorem State.coreReset_panLen (s : State) : (s.coreReset).panLen = 0 := rfl
@[simp] theorem State.coreReset_psnLen (s : State) : (s.coreReset).psnLen = 0 := rfl
@[simp] theorem State.coreReset_pinLen (s : State) : (s.coreReset).pinLen = 0 := rfl
@[simp] theorem State.coreReset_dinLen (s : State) : (s.coreReset).dinLen = 0 := rfl
@[simp] theorem State.coreReset_doutLen (s : State) : (s.coreReset).doutLen = 0 := rfl
@[simp] theorem State.coreReset_mem (s : State) : (s.coreReset).mem = [] := rfl
@[simp] theorem State.coreReset_script (s : State) : (s.coreReset).script = s.script := rfl
@[simp] theorem State.coreReset_pos (s : State) : (s.coreReset).pos = s.pos := rfl
@[simp] theorem State.coreReset_locals (s : State) : (s.coreReset).locals = s.locals := rfl
@[simp] theorem State.coreReset_rdbWords (s : State) : (s.coreReset).rdbWords = s.rdbWords := rfl
@[simp] theorem State.coreReset_strings (s : State) : (s.coreReset).strings = s.strings := rfl
@[simp] theorem State.coreReset_resp (s : State) : (s.coreReset).resp = s.resp := rfl
@[simp] theorem State.coreReset_latencies (s : State) : (s.coreReset).latencies = s.latencies := rfl
@[simp] theorem State.coreReset_busyLeft (s : State) : (s.coreReset).busyLeft = 0 := rfl
@[simp] theorem State.coreReset_rngQueue (s : State) : (s.coreReset).rngQueue = s.rngQueue := rfl
@[simp] theorem State.coreReset_rngPos (s : State) : (s.coreReset).rngPos = s.rngPos := rfl
@[simp] theorem State.coreReset_rngSilent (s : State) : (s.coreReset).rngSilent = s.rngSilent := rfl
@[simp] theorem State.coreReset_rngDown (s : State) : (s.coreReset).rngDown = s.rngDown := rfl
@[simp] theorem State.coreReset_resetIn (s : State) : (s.coreReset).resetIn = s.resetIn := rfl
@[simp] theorem State.coreReset_dataSize (s : State) : (s.coreReset).dataSize = s.dataSize := rfl

/-! ## zeroized -/

@[simp] theorem State.zeroized_st (s : State) : (s.zeroized).st = .idle := rfl
@[simp] theorem State.zeroized_vfail (s : State) : (s.zeroized).vfail = false := rfl
@[simp] theorem State.zeroized_parok (s : State) : (s.zeroized).parok = false := rfl
@[simp] theorem State.zeroized_irqPending (s : State) : (s.zeroized).irqPending = false := rfl
@[simp] theorem State.zeroized_err (s : State) : (s.zeroized).err = 0x00 := rfl
@[simp] theorem State.zeroized_cmd (s : State) : (s.zeroized).cmd = 0 := rfl
@[simp] theorem State.zeroized_ie (s : State) : (s.zeroized).ie = s.ie := rfl
@[simp] theorem State.zeroized_atc (s : State) : (s.zeroized).atc = 0 := rfl
@[simp] theorem State.zeroized_key0Len (s : State) : (s.zeroized).key0Len = 0 := rfl
@[simp] theorem State.zeroized_key1Len (s : State) : (s.zeroized).key1Len = 0 := rfl
@[simp] theorem State.zeroized_ivLen (s : State) : (s.zeroized).ivLen = 0 := rfl
@[simp] theorem State.zeroized_ksnLen (s : State) : (s.zeroized).ksnLen = 0 := rfl
@[simp] theorem State.zeroized_unLen (s : State) : (s.zeroized).unLen = 0 := rfl
@[simp] theorem State.zeroized_aux0Len (s : State) : (s.zeroized).aux0Len = 0 := rfl
@[simp] theorem State.zeroized_aux1Len (s : State) : (s.zeroized).aux1Len = 0 := rfl
@[simp] theorem State.zeroized_aux2Len (s : State) : (s.zeroized).aux2Len = 0 := rfl
@[simp] theorem State.zeroized_panLen (s : State) : (s.zeroized).panLen = 0 := rfl
@[simp] theorem State.zeroized_psnLen (s : State) : (s.zeroized).psnLen = 0 := rfl
@[simp] theorem State.zeroized_pinLen (s : State) : (s.zeroized).pinLen = 0 := rfl
@[simp] theorem State.zeroized_dinLen (s : State) : (s.zeroized).dinLen = 0 := rfl
@[simp] theorem State.zeroized_doutLen (s : State) : (s.zeroized).doutLen = 0 := rfl
@[simp] theorem State.zeroized_mem (s : State) : (s.zeroized).mem = [] := rfl
@[simp] theorem State.zeroized_script (s : State) : (s.zeroized).script = s.script := rfl
@[simp] theorem State.zeroized_pos (s : State) : (s.zeroized).pos = s.pos := rfl
@[simp] theorem State.zeroized_locals (s : State) : (s.zeroized).locals = s.locals := rfl
@[simp] theorem State.zeroized_rdbWords (s : State) : (s.zeroized).rdbWords = s.rdbWords := rfl
@[simp] theorem State.zeroized_strings (s : State) : (s.zeroized).strings = s.strings := rfl
@[simp] theorem State.zeroized_resp (s : State) : (s.zeroized).resp = s.resp := rfl
@[simp] theorem State.zeroized_latencies (s : State) : (s.zeroized).latencies = s.latencies := rfl
@[simp] theorem State.zeroized_busyLeft (s : State) : (s.zeroized).busyLeft = 0 := rfl
@[simp] theorem State.zeroized_rngQueue (s : State) : (s.zeroized).rngQueue = s.rngQueue := rfl
@[simp] theorem State.zeroized_rngPos (s : State) : (s.zeroized).rngPos = s.rngPos := rfl
@[simp] theorem State.zeroized_rngSilent (s : State) : (s.zeroized).rngSilent = s.rngSilent := rfl
@[simp] theorem State.zeroized_rngDown (s : State) : (s.zeroized).rngDown = s.rngDown := rfl
@[simp] theorem State.zeroized_resetIn (s : State) : (s.zeroized).resetIn = s.resetIn := rfl
@[simp] theorem State.zeroized_dataSize (s : State) : (s.zeroized).dataSize = s.dataSize := rfl

/-! ## sampled -/

@[simp] theorem State.sampled_st (s : State) : (s.sampled).st = s.st := rfl
@[simp] theorem State.sampled_vfail (s : State) : (s.sampled).vfail = s.vfail := rfl
@[simp] theorem State.sampled_parok (s : State) : (s.sampled).parok = s.parok := rfl
@[simp] theorem State.sampled_irqPending (s : State) : (s.sampled).irqPending = s.irqPending := rfl
@[simp] theorem State.sampled_err (s : State) : (s.sampled).err = s.err := rfl
@[simp] theorem State.sampled_cmd (s : State) : (s.sampled).cmd = s.cmd := rfl
@[simp] theorem State.sampled_ie (s : State) : (s.sampled).ie = s.ie := rfl
@[simp] theorem State.sampled_atc (s : State) : (s.sampled).atc = s.atc := rfl
@[simp] theorem State.sampled_key0Len (s : State) : (s.sampled).key0Len = s.key0Len := rfl
@[simp] theorem State.sampled_key1Len (s : State) : (s.sampled).key1Len = s.key1Len := rfl
@[simp] theorem State.sampled_ivLen (s : State) : (s.sampled).ivLen = s.ivLen := rfl
@[simp] theorem State.sampled_ksnLen (s : State) : (s.sampled).ksnLen = s.ksnLen := rfl
@[simp] theorem State.sampled_unLen (s : State) : (s.sampled).unLen = s.unLen := rfl
@[simp] theorem State.sampled_aux0Len (s : State) : (s.sampled).aux0Len = s.aux0Len := rfl
@[simp] theorem State.sampled_aux1Len (s : State) : (s.sampled).aux1Len = s.aux1Len := rfl
@[simp] theorem State.sampled_aux2Len (s : State) : (s.sampled).aux2Len = s.aux2Len := rfl
@[simp] theorem State.sampled_panLen (s : State) : (s.sampled).panLen = s.panLen := rfl
@[simp] theorem State.sampled_psnLen (s : State) : (s.sampled).psnLen = s.psnLen := rfl
@[simp] theorem State.sampled_pinLen (s : State) : (s.sampled).pinLen = s.pinLen := rfl
@[simp] theorem State.sampled_dinLen (s : State) : (s.sampled).dinLen = s.dinLen := rfl
@[simp] theorem State.sampled_doutLen (s : State) : (s.sampled).doutLen = s.doutLen := rfl
@[simp] theorem State.sampled_mem (s : State) : (s.sampled).mem = s.mem := rfl
@[simp] theorem State.sampled_script (s : State) : (s.sampled).script = s.script := rfl
@[simp] theorem State.sampled_pos (s : State) : (s.sampled).pos = s.pos := rfl
@[simp] theorem State.sampled_locals (s : State) : (s.sampled).locals = s.locals := rfl
@[simp] theorem State.sampled_rdbWords (s : State) : (s.sampled).rdbWords = s.rdbWords := rfl
@[simp] theorem State.sampled_strings (s : State) : (s.sampled).strings = s.strings := rfl
@[simp] theorem State.sampled_resp (s : State) : (s.sampled).resp = s.resp := rfl
@[simp] theorem State.sampled_latencies (s : State) : (s.sampled).latencies = s.latencies := rfl
@[simp] theorem State.sampled_busyLeft (s : State) : (s.sampled).busyLeft = s.busyLeft := rfl
@[simp] theorem State.sampled_rngQueue (s : State) : (s.sampled).rngQueue = s.rngQueue := rfl
@[simp] theorem State.sampled_rngPos (s : State) : (s.sampled).rngPos = s.rngPos := rfl
@[simp] theorem State.sampled_rngSilent (s : State) : (s.sampled).rngSilent = s.rngSilent.tail := rfl
@[simp] theorem State.sampled_rngDown (s : State) : (s.sampled).rngDown = s.rngDown := rfl
@[simp] theorem State.sampled_resetIn (s : State) : (s.sampled).resetIn = s.resetIn.tail := rfl
@[simp] theorem State.sampled_dataSize (s : State) : (s.sampled).dataSize = s.dataSize := rfl

/-! ## nextLine -/

@[simp] theorem State.nextLine_st (s : State) : (s.nextLine).st = s.st := rfl
@[simp] theorem State.nextLine_vfail (s : State) : (s.nextLine).vfail = s.vfail := rfl
@[simp] theorem State.nextLine_parok (s : State) : (s.nextLine).parok = s.parok := rfl
@[simp] theorem State.nextLine_irqPending (s : State) : (s.nextLine).irqPending = s.irqPending := rfl
@[simp] theorem State.nextLine_err (s : State) : (s.nextLine).err = s.err := rfl
@[simp] theorem State.nextLine_cmd (s : State) : (s.nextLine).cmd = s.cmd := rfl
@[simp] theorem State.nextLine_ie (s : State) : (s.nextLine).ie = s.ie := rfl
@[simp] theorem State.nextLine_atc (s : State) : (s.nextLine).atc = s.atc := rfl
@[simp] theorem State.nextLine_key0Len (s : State) : (s.nextLine).key0Len = s.key0Len := rfl
@[simp] theorem State.nextLine_key1Len (s : State) : (s.nextLine).key1Len = s.key1Len := rfl
@[simp] theorem State.nextLine_ivLen (s : State) : (s.nextLine).ivLen = s.ivLen := rfl
@[simp] theorem State.nextLine_ksnLen (s : State) : (s.nextLine).ksnLen = s.ksnLen := rfl
@[simp] theorem State.nextLine_unLen (s : State) : (s.nextLine).unLen = s.unLen := rfl
@[simp] theorem State.nextLine_aux0Len (s : State) : (s.nextLine).aux0Len = s.aux0Len := rfl
@[simp] theorem State.nextLine_aux1Len (s : State) : (s.nextLine).aux1Len = s.aux1Len := rfl
@[simp] theorem State.nextLine_aux2Len (s : State) : (s.nextLine).aux2Len = s.aux2Len := rfl
@[simp] theorem State.nextLine_panLen (s : State) : (s.nextLine).panLen = s.panLen := rfl
@[simp] theorem State.nextLine_psnLen (s : State) : (s.nextLine).psnLen = s.psnLen := rfl
@[simp] theorem State.nextLine_pinLen (s : State) : (s.nextLine).pinLen = s.pinLen := rfl
@[simp] theorem State.nextLine_dinLen (s : State) : (s.nextLine).dinLen = s.dinLen := rfl
@[simp] theorem State.nextLine_doutLen (s : State) : (s.nextLine).doutLen = s.doutLen := rfl
@[simp] theorem State.nextLine_mem (s : State) : (s.nextLine).mem = s.mem := rfl
@[simp] theorem State.nextLine_script (s : State) : (s.nextLine).script = s.script := rfl
@[simp] theorem State.nextLine_pos (s : State) : (s.nextLine).pos = s.pos + 1 := rfl
@[simp] theorem State.nextLine_locals (s : State) : (s.nextLine).locals = s.locals := rfl
@[simp] theorem State.nextLine_rdbWords (s : State) : (s.nextLine).rdbWords = s.rdbWords := rfl
@[simp] theorem State.nextLine_strings (s : State) : (s.nextLine).strings = s.strings := rfl
@[simp] theorem State.nextLine_resp (s : State) : (s.nextLine).resp = s.resp := rfl
@[simp] theorem State.nextLine_latencies (s : State) : (s.nextLine).latencies = s.latencies := rfl
@[simp] theorem State.nextLine_busyLeft (s : State) : (s.nextLine).busyLeft = s.busyLeft := rfl
@[simp] theorem State.nextLine_rngQueue (s : State) : (s.nextLine).rngQueue = s.rngQueue := rfl
@[simp] theorem State.nextLine_rngPos (s : State) : (s.nextLine).rngPos = s.rngPos := rfl
@[simp] theorem State.nextLine_rngSilent (s : State) : (s.nextLine).rngSilent = s.rngSilent := rfl
@[simp] theorem State.nextLine_rngDown (s : State) : (s.nextLine).rngDown = s.rngDown := rfl
@[simp] theorem State.nextLine_resetIn (s : State) : (s.nextLine).resetIn = s.resetIn := rfl
@[simp] theorem State.nextLine_dataSize (s : State) : (s.nextLine).dataSize = s.dataSize := rfl

/-! ## goto -/

@[simp] theorem State.goto_st (s : State) (l : Nat) : (s.goto l).st = s.st := rfl
@[simp] theorem State.goto_vfail (s : State) (l : Nat) : (s.goto l).vfail = s.vfail := rfl
@[simp] theorem State.goto_parok (s : State) (l : Nat) : (s.goto l).parok = s.parok := rfl
@[simp] theorem State.goto_irqPending (s : State) (l : Nat) : (s.goto l).irqPending = s.irqPending := rfl
@[simp] theorem State.goto_err (s : State) (l : Nat) : (s.goto l).err = s.err := rfl
@[simp] theorem State.goto_cmd (s : State) (l : Nat) : (s.goto l).cmd = s.cmd := rfl
@[simp] theorem State.goto_ie (s : State) (l : Nat) : (s.goto l).ie = s.ie := rfl
@[simp] theorem State.goto_atc (s : State) (l : Nat) : (s.goto l).atc = s.atc := rfl
@[simp] theorem State.goto_key0Len (s : State) (l : Nat) : (s.goto l).key0Len = s.key0Len := rfl
@[simp] theorem State.goto_key1Len (s : State) (l : Nat) : (s.goto l).key1Len = s.key1Len := rfl
@[simp] theorem State.goto_ivLen (s : State) (l : Nat) : (s.goto l).ivLen = s.ivLen := rfl
@[simp] theorem State.goto_ksnLen (s : State) (l : Nat) : (s.goto l).ksnLen = s.ksnLen := rfl
@[simp] theorem State.goto_unLen (s : State) (l : Nat) : (s.goto l).unLen = s.unLen := rfl
@[simp] theorem State.goto_aux0Len (s : State) (l : Nat) : (s.goto l).aux0Len = s.aux0Len := rfl
@[simp] theorem State.goto_aux1Len (s : State) (l : Nat) : (s.goto l).aux1Len = s.aux1Len := rfl
@[simp] theorem State.goto_aux2Len (s : State) (l : Nat) : (s.goto l).aux2Len = s.aux2Len := rfl
@[simp] theorem State.goto_panLen (s : State) (l : Nat) : (s.goto l).panLen = s.panLen := rfl
@[simp] theorem State.goto_psnLen (s : State) (l : Nat) : (s.goto l).psnLen = s.psnLen := rfl
@[simp] theorem State.goto_pinLen (s : State) (l : Nat) : (s.goto l).pinLen = s.pinLen := rfl
@[simp] theorem State.goto_dinLen (s : State) (l : Nat) : (s.goto l).dinLen = s.dinLen := rfl
@[simp] theorem State.goto_doutLen (s : State) (l : Nat) : (s.goto l).doutLen = s.doutLen := rfl
@[simp] theorem State.goto_mem (s : State) (l : Nat) : (s.goto l).mem = s.mem := rfl
@[simp] theorem State.goto_script (s : State) (l : Nat) : (s.goto l).script = s.script := rfl
@[simp] theorem State.goto_pos (s : State) (l : Nat) : (s.goto l).pos = l := rfl
@[simp] theorem State.goto_locals (s : State) (l : Nat) : (s.goto l).locals = s.locals := rfl
@[simp] theorem State.goto_rdbWords (s : State) (l : Nat) : (s.goto l).rdbWords = s.rdbWords := rfl
@[simp] theorem State.goto_strings (s : State) (l : Nat) : (s.goto l).strings = s.strings := rfl
@[simp] theorem State.goto_resp (s : State) (l : Nat) : (s.goto l).resp = s.resp := rfl
@[simp] theorem State.goto_latencies (s : State) (l : Nat) : (s.goto l).latencies = s.latencies := rfl
@[simp] theorem State.goto_busyLeft (s : State) (l : Nat) : (s.goto l).busyLeft = s.busyLeft := rfl
@[simp] theorem State.goto_rngQueue (s : State) (l : Nat) : (s.goto l).rngQueue = s.rngQueue := rfl
@[simp] theorem State.goto_rngPos (s : State) (l : Nat) : (s.goto l).rngPos = s.rngPos := rfl
@[simp] theorem State.goto_rngSilent (s : State) (l : Nat) : (s.goto l).rngSilent = s.rngSilent := rfl
@[simp] theorem State.goto_rngDown (s : State) (l : Nat) : (s.goto l).rngDown = s.rngDown := rfl
@[simp] theorem State.goto_resetIn (s : State) (l : Nat) : (s.goto l).resetIn = s.resetIn := rfl
@[simp] theorem State.goto_dataSize (s : State) (l : Nat) : (s.goto l).dataSize = s.dataSize := rfl

/-! ## setLocal -/

@[simp] theorem State.setLocal_st (s : State) (x : Nat) (v : Word) : (s.setLocal x v).st = s.st := rfl
@[simp] theorem State.setLocal_vfail (s : State) (x : Nat) (v : Word) : (s.setLocal x v).vfail = s.vfail := rfl
@[simp] theorem State.setLocal_parok (s : State) (x : Nat) (v : Word) : (s.setLocal x v).parok = s.parok := rfl
@[simp] theorem State.setLocal_irqPending (s : State) (x : Nat) (v : Word) : (s.setLocal x v).irqPending = s.irqPending := rfl
@[simp] theorem State.setLocal_err (s : State) (x : Nat) (v : Word) : (s.setLocal x v).err = s.err := rfl
@[simp] theorem State.setLocal_cmd (s : State) (x : Nat) (v : Word) : (s.setLocal x v).cmd = s.cmd := rfl
@[simp] theorem State.setLocal_ie (s : State) (x : Nat) (v : Word) : (s.setLocal x v).ie = s.ie := rfl
@[simp] theorem State.setLocal_atc (s : State) (x : Nat) (v : Word) : (s.setLocal x v).atc = s.atc := rfl
@[simp] theorem State.setLocal_key0Len (s : State) (x : Nat) (v : Word) : (s.setLocal x v).key0Len = s.key0Len := rfl
@[simp] theorem State.setLocal_key1Len (s : State) (x : Nat) (v : Word) : (s.setLocal x v).key1Len = s.key1Len := rfl
@[simp] theorem State.setLocal_ivLen (s : State) (x : Nat) (v : Word) : (s.setLocal x v).ivLen = s.ivLen := rfl
@[simp] theorem State.setLocal_ksnLen (s : State) (x : Nat) (v : Word) : (s.setLocal x v).ksnLen = s.ksnLen := rfl
@[simp] theorem State.setLocal_unLen (s : State) (x : Nat) (v : Word) : (s.setLocal x v).unLen = s.unLen := rfl
@[simp] theorem State.setLocal_aux0Len (s : State) (x : Nat) (v : Word) : (s.setLocal x v).aux0Len = s.aux0Len := rfl
@[simp] theorem State.setLocal_aux1Len (s : State) (x : Nat) (v : Word) : (s.setLocal x v).aux1Len = s.aux1Len := rfl
@[simp] theorem State.setLocal_aux2Len (s : State) (x : Nat) (v : Word) : (s.setLocal x v).aux2Len = s.aux2Len := rfl
@[simp] theorem State.setLocal_panLen (s : State) (x : Nat) (v : Word) : (s.setLocal x v).panLen = s.panLen := rfl
@[simp] theorem State.setLocal_psnLen (s : State) (x : Nat) (v : Word) : (s.setLocal x v).psnLen = s.psnLen := rfl
@[simp] theorem State.setLocal_pinLen (s : State) (x : Nat) (v : Word) : (s.setLocal x v).pinLen = s.pinLen := rfl
@[simp] theorem State.setLocal_dinLen (s : State) (x : Nat) (v : Word) : (s.setLocal x v).dinLen = s.dinLen := rfl
@[simp] theorem State.setLocal_doutLen (s : State) (x : Nat) (v : Word) : (s.setLocal x v).doutLen = s.doutLen := rfl
@[simp] theorem State.setLocal_mem (s : State) (x : Nat) (v : Word) : (s.setLocal x v).mem = s.mem := rfl
@[simp] theorem State.setLocal_script (s : State) (x : Nat) (v : Word) : (s.setLocal x v).script = s.script := rfl
@[simp] theorem State.setLocal_pos (s : State) (x : Nat) (v : Word) : (s.setLocal x v).pos = s.pos := rfl
@[simp] theorem State.setLocal_locals (s : State) (x : Nat) (v : Word) : (s.setLocal x v).locals = (x, v) :: s.locals.filter fun p => p.1 != x := rfl
@[simp] theorem State.setLocal_rdbWords (s : State) (x : Nat) (v : Word) : (s.setLocal x v).rdbWords = s.rdbWords := rfl
@[simp] theorem State.setLocal_strings (s : State) (x : Nat) (v : Word) : (s.setLocal x v).strings = s.strings := rfl
@[simp] theorem State.setLocal_resp (s : State) (x : Nat) (v : Word) : (s.setLocal x v).resp = s.resp := rfl
@[simp] theorem State.setLocal_latencies (s : State) (x : Nat) (v : Word) : (s.setLocal x v).latencies = s.latencies := rfl
@[simp] theorem State.setLocal_busyLeft (s : State) (x : Nat) (v : Word) : (s.setLocal x v).busyLeft = s.busyLeft := rfl
@[simp] theorem State.setLocal_rngQueue (s : State) (x : Nat) (v : Word) : (s.setLocal x v).rngQueue = s.rngQueue := rfl
@[simp] theorem State.setLocal_rngPos (s : State) (x : Nat) (v : Word) : (s.setLocal x v).rngPos = s.rngPos := rfl
@[simp] theorem State.setLocal_rngSilent (s : State) (x : Nat) (v : Word) : (s.setLocal x v).rngSilent = s.rngSilent := rfl
@[simp] theorem State.setLocal_rngDown (s : State) (x : Nat) (v : Word) : (s.setLocal x v).rngDown = s.rngDown := rfl
@[simp] theorem State.setLocal_resetIn (s : State) (x : Nat) (v : Word) : (s.setLocal x v).resetIn = s.resetIn := rfl
@[simp] theorem State.setLocal_dataSize (s : State) (x : Nat) (v : Word) : (s.setLocal x v).dataSize = s.dataSize := rfl

/-! ## takeString -/

@[simp] theorem State.takeString_st (s : State) (x n : Nat) : (s.takeString x n).st = s.st := rfl
@[simp] theorem State.takeString_vfail (s : State) (x n : Nat) : (s.takeString x n).vfail = s.vfail := rfl
@[simp] theorem State.takeString_parok (s : State) (x n : Nat) : (s.takeString x n).parok = s.parok := rfl
@[simp] theorem State.takeString_irqPending (s : State) (x n : Nat) : (s.takeString x n).irqPending = s.irqPending := rfl
@[simp] theorem State.takeString_err (s : State) (x n : Nat) : (s.takeString x n).err = s.err := rfl
@[simp] theorem State.takeString_cmd (s : State) (x n : Nat) : (s.takeString x n).cmd = s.cmd := rfl
@[simp] theorem State.takeString_ie (s : State) (x n : Nat) : (s.takeString x n).ie = s.ie := rfl
@[simp] theorem State.takeString_atc (s : State) (x n : Nat) : (s.takeString x n).atc = s.atc := rfl
@[simp] theorem State.takeString_key0Len (s : State) (x n : Nat) : (s.takeString x n).key0Len = s.key0Len := rfl
@[simp] theorem State.takeString_key1Len (s : State) (x n : Nat) : (s.takeString x n).key1Len = s.key1Len := rfl
@[simp] theorem State.takeString_ivLen (s : State) (x n : Nat) : (s.takeString x n).ivLen = s.ivLen := rfl
@[simp] theorem State.takeString_ksnLen (s : State) (x n : Nat) : (s.takeString x n).ksnLen = s.ksnLen := rfl
@[simp] theorem State.takeString_unLen (s : State) (x n : Nat) : (s.takeString x n).unLen = s.unLen := rfl
@[simp] theorem State.takeString_aux0Len (s : State) (x n : Nat) : (s.takeString x n).aux0Len = s.aux0Len := rfl
@[simp] theorem State.takeString_aux1Len (s : State) (x n : Nat) : (s.takeString x n).aux1Len = s.aux1Len := rfl
@[simp] theorem State.takeString_aux2Len (s : State) (x n : Nat) : (s.takeString x n).aux2Len = s.aux2Len := rfl
@[simp] theorem State.takeString_panLen (s : State) (x n : Nat) : (s.takeString x n).panLen = s.panLen := rfl
@[simp] theorem State.takeString_psnLen (s : State) (x n : Nat) : (s.takeString x n).psnLen = s.psnLen := rfl
@[simp] theorem State.takeString_pinLen (s : State) (x n : Nat) : (s.takeString x n).pinLen = s.pinLen := rfl
@[simp] theorem State.takeString_dinLen (s : State) (x n : Nat) : (s.takeString x n).dinLen = s.dinLen := rfl
@[simp] theorem State.takeString_doutLen (s : State) (x n : Nat) : (s.takeString x n).doutLen = s.doutLen := rfl
@[simp] theorem State.takeString_mem (s : State) (x n : Nat) : (s.takeString x n).mem = s.mem := rfl
@[simp] theorem State.takeString_script (s : State) (x n : Nat) : (s.takeString x n).script = s.script := rfl
@[simp] theorem State.takeString_pos (s : State) (x n : Nat) : (s.takeString x n).pos = s.pos := rfl
@[simp] theorem State.takeString_locals (s : State) (x n : Nat) : (s.takeString x n).locals = s.locals := rfl
@[simp] theorem State.takeString_rdbWords (s : State) (x n : Nat) : (s.takeString x n).rdbWords = [] := rfl
@[simp] theorem State.takeString_strings (s : State) (x n : Nat) : (s.takeString x n).strings = (x, (s.rdbWords.flatMap bytesOf).take n) :: s.strings.filter fun p => p.1 != x := rfl
@[simp] theorem State.takeString_resp (s : State) (x n : Nat) : (s.takeString x n).resp = s.resp := rfl
@[simp] theorem State.takeString_latencies (s : State) (x n : Nat) : (s.takeString x n).latencies = s.latencies := rfl
@[simp] theorem State.takeString_busyLeft (s : State) (x n : Nat) : (s.takeString x n).busyLeft = s.busyLeft := rfl
@[simp] theorem State.takeString_rngQueue (s : State) (x n : Nat) : (s.takeString x n).rngQueue = s.rngQueue := rfl
@[simp] theorem State.takeString_rngPos (s : State) (x n : Nat) : (s.takeString x n).rngPos = s.rngPos := rfl
@[simp] theorem State.takeString_rngSilent (s : State) (x n : Nat) : (s.takeString x n).rngSilent = s.rngSilent := rfl
@[simp] theorem State.takeString_rngDown (s : State) (x n : Nat) : (s.takeString x n).rngDown = s.rngDown := rfl
@[simp] theorem State.takeString_resetIn (s : State) (x n : Nat) : (s.takeString x n).resetIn = s.resetIn := rfl
@[simp] theorem State.takeString_dataSize (s : State) (x n : Nat) : (s.takeString x n).dataSize = s.dataSize := rfl

/-! ## readNextWord -/

@[simp] theorem State.readNextWord_st (s : State) : (s.readNextWord).st = s.st := rfl
@[simp] theorem State.readNextWord_vfail (s : State) : (s.readNextWord).vfail = s.vfail := rfl
@[simp] theorem State.readNextWord_parok (s : State) : (s.readNextWord).parok = s.parok := rfl
@[simp] theorem State.readNextWord_irqPending (s : State) : (s.readNextWord).irqPending = s.irqPending := rfl
@[simp] theorem State.readNextWord_err (s : State) : (s.readNextWord).err = s.err := rfl
@[simp] theorem State.readNextWord_cmd (s : State) : (s.readNextWord).cmd = s.cmd := rfl
@[simp] theorem State.readNextWord_ie (s : State) : (s.readNextWord).ie = s.ie := rfl
@[simp] theorem State.readNextWord_atc (s : State) : (s.readNextWord).atc = s.atc := rfl
@[simp] theorem State.readNextWord_key0Len (s : State) : (s.readNextWord).key0Len = s.key0Len := rfl
@[simp] theorem State.readNextWord_key1Len (s : State) : (s.readNextWord).key1Len = s.key1Len := rfl
@[simp] theorem State.readNextWord_ivLen (s : State) : (s.readNextWord).ivLen = s.ivLen := rfl
@[simp] theorem State.readNextWord_ksnLen (s : State) : (s.readNextWord).ksnLen = s.ksnLen := rfl
@[simp] theorem State.readNextWord_unLen (s : State) : (s.readNextWord).unLen = s.unLen := rfl
@[simp] theorem State.readNextWord_aux0Len (s : State) : (s.readNextWord).aux0Len = s.aux0Len := rfl
@[simp] theorem State.readNextWord_aux1Len (s : State) : (s.readNextWord).aux1Len = s.aux1Len := rfl
@[simp] theorem State.readNextWord_aux2Len (s : State) : (s.readNextWord).aux2Len = s.aux2Len := rfl
@[simp] theorem State.readNextWord_panLen (s : State) : (s.readNextWord).panLen = s.panLen := rfl
@[simp] theorem State.readNextWord_psnLen (s : State) : (s.readNextWord).psnLen = s.psnLen := rfl
@[simp] theorem State.readNextWord_pinLen (s : State) : (s.readNextWord).pinLen = s.pinLen := rfl
@[simp] theorem State.readNextWord_dinLen (s : State) : (s.readNextWord).dinLen = s.dinLen := rfl
@[simp] theorem State.readNextWord_doutLen (s : State) : (s.readNextWord).doutLen = s.doutLen := rfl
@[simp] theorem State.readNextWord_mem (s : State) : (s.readNextWord).mem = s.mem := rfl
@[simp] theorem State.readNextWord_script (s : State) : (s.readNextWord).script = s.script := rfl
@[simp] theorem State.readNextWord_pos (s : State) : (s.readNextWord).pos = s.pos := rfl
@[simp] theorem State.readNextWord_locals (s : State) : (s.readNextWord).locals = s.locals := rfl
@[simp] theorem State.readNextWord_rdbWords (s : State) : (s.readNextWord).rdbWords = s.rdbWords ++ [(s.busRead .w32 (BitVec.ofNat 14 (doutBase + 4 * s.rdbWords.length))).word] := rfl
@[simp] theorem State.readNextWord_strings (s : State) : (s.readNextWord).strings = s.strings := rfl
@[simp] theorem State.readNextWord_resp (s : State) : (s.readNextWord).resp = s.busRead .w32 (BitVec.ofNat 14 (doutBase + 4 * s.rdbWords.length)) := rfl
@[simp] theorem State.readNextWord_latencies (s : State) : (s.readNextWord).latencies = s.latencies := rfl
@[simp] theorem State.readNextWord_busyLeft (s : State) : (s.readNextWord).busyLeft = s.busyLeft := rfl
@[simp] theorem State.readNextWord_rngQueue (s : State) : (s.readNextWord).rngQueue = s.rngQueue := rfl
@[simp] theorem State.readNextWord_rngPos (s : State) : (s.readNextWord).rngPos = s.rngPos := rfl
@[simp] theorem State.readNextWord_rngSilent (s : State) : (s.readNextWord).rngSilent = s.rngSilent := rfl
@[simp] theorem State.readNextWord_rngDown (s : State) : (s.readNextWord).rngDown = s.rngDown := rfl
@[simp] theorem State.readNextWord_resetIn (s : State) : (s.readNextWord).resetIn = s.resetIn := rfl
@[simp] theorem State.readNextWord_dataSize (s : State) : (s.readNextWord).dataSize = s.dataSize := rfl

/-! ## armed -/

@[simp] theorem State.armed_st (s : State) (w : Word) : (s.armed w).st = .busy := rfl
@[simp] theorem State.armed_vfail (s : State) (w : Word) : (s.armed w).vfail = false := rfl
@[simp] theorem State.armed_parok (s : State) (w : Word) : (s.armed w).parok = false := rfl
@[simp] theorem State.armed_irqPending (s : State) (w : Word) : (s.armed w).irqPending = false := rfl
@[simp] theorem State.armed_err (s : State) (w : Word) : (s.armed w).err = 0x00 := rfl
@[simp] theorem State.armed_cmd (s : State) (w : Word) : (s.armed w).cmd = w := rfl
@[simp] theorem State.armed_ie (s : State) (w : Word) : (s.armed w).ie = s.ie := rfl
@[simp] theorem State.armed_atc (s : State) (w : Word) : (s.armed w).atc = s.atc := rfl
@[simp] theorem State.armed_key0Len (s : State) (w : Word) : (s.armed w).key0Len = s.key0Len := rfl
@[simp] theorem State.armed_key1Len (s : State) (w : Word) : (s.armed w).key1Len = s.key1Len := rfl
@[simp] theorem State.armed_ivLen (s : State) (w : Word) : (s.armed w).ivLen = s.ivLen := rfl
@[simp] theorem State.armed_ksnLen (s : State) (w : Word) : (s.armed w).ksnLen = s.ksnLen := rfl
@[simp] theorem State.armed_unLen (s : State) (w : Word) : (s.armed w).unLen = s.unLen := rfl
@[simp] theorem State.armed_aux0Len (s : State) (w : Word) : (s.armed w).aux0Len = s.aux0Len := rfl
@[simp] theorem State.armed_aux1Len (s : State) (w : Word) : (s.armed w).aux1Len = s.aux1Len := rfl
@[simp] theorem State.armed_aux2Len (s : State) (w : Word) : (s.armed w).aux2Len = s.aux2Len := rfl
@[simp] theorem State.armed_panLen (s : State) (w : Word) : (s.armed w).panLen = s.panLen := rfl
@[simp] theorem State.armed_psnLen (s : State) (w : Word) : (s.armed w).psnLen = s.psnLen := rfl
@[simp] theorem State.armed_pinLen (s : State) (w : Word) : (s.armed w).pinLen = s.pinLen := rfl
@[simp] theorem State.armed_dinLen (s : State) (w : Word) : (s.armed w).dinLen = s.dinLen := rfl
@[simp] theorem State.armed_doutLen (s : State) (w : Word) : (s.armed w).doutLen = 0 := rfl
@[simp] theorem State.armed_mem (s : State) (w : Word) : (s.armed w).mem = (s.setDout []).mem := rfl
@[simp] theorem State.armed_script (s : State) (w : Word) : (s.armed w).script = s.script := rfl
@[simp] theorem State.armed_pos (s : State) (w : Word) : (s.armed w).pos = s.pos := rfl
@[simp] theorem State.armed_locals (s : State) (w : Word) : (s.armed w).locals = s.locals := rfl
@[simp] theorem State.armed_rdbWords (s : State) (w : Word) : (s.armed w).rdbWords = s.rdbWords := rfl
@[simp] theorem State.armed_strings (s : State) (w : Word) : (s.armed w).strings = s.strings := rfl
@[simp] theorem State.armed_resp (s : State) (w : Word) : (s.armed w).resp = s.resp := rfl
@[simp] theorem State.armed_latencies (s : State) (w : Word) : (s.armed w).latencies = s.latencies := rfl
@[simp] theorem State.armed_busyLeft (s : State) (w : Word) : (s.armed w).busyLeft = 0 := rfl
@[simp] theorem State.armed_rngQueue (s : State) (w : Word) : (s.armed w).rngQueue = s.rngQueue := rfl
@[simp] theorem State.armed_rngPos (s : State) (w : Word) : (s.armed w).rngPos = s.rngPos := rfl
@[simp] theorem State.armed_rngSilent (s : State) (w : Word) : (s.armed w).rngSilent = if s.portSilent then false :: s.rngSilent.tail else s.rngSilent := rfl
@[simp] theorem State.armed_rngDown (s : State) (w : Word) : (s.armed w).rngDown = s.rngDown := rfl
@[simp] theorem State.armed_resetIn (s : State) (w : Word) : (s.armed w).resetIn = if s.resetIn.headD false then false :: s.resetIn.tail else s.resetIn := rfl
@[simp] theorem State.armed_dataSize (s : State) (w : Word) : (s.armed w).dataSize = s.dataSize := rfl

/-! ## tick -/

@[simp] theorem State.tick_st (s : State) : (s.tick).st = s.st := by unfold State.tick; split <;> simp [*]
@[simp] theorem State.tick_vfail (s : State) : (s.tick).vfail = s.vfail := by unfold State.tick; split <;> simp [*]
@[simp] theorem State.tick_parok (s : State) : (s.tick).parok = s.parok := by unfold State.tick; split <;> simp [*]
@[simp] theorem State.tick_irqPending (s : State) : (s.tick).irqPending = s.irqPending := by unfold State.tick; split <;> simp [*]
@[simp] theorem State.tick_err (s : State) : (s.tick).err = s.err := by unfold State.tick; split <;> simp [*]
@[simp] theorem State.tick_cmd (s : State) : (s.tick).cmd = s.cmd := by unfold State.tick; split <;> simp [*]
@[simp] theorem State.tick_ie (s : State) : (s.tick).ie = s.ie := by unfold State.tick; split <;> simp [*]
@[simp] theorem State.tick_atc (s : State) : (s.tick).atc = s.atc := by unfold State.tick; split <;> simp [*]
@[simp] theorem State.tick_key0Len (s : State) : (s.tick).key0Len = s.key0Len := by unfold State.tick; split <;> simp [*]
@[simp] theorem State.tick_key1Len (s : State) : (s.tick).key1Len = s.key1Len := by unfold State.tick; split <;> simp [*]
@[simp] theorem State.tick_ivLen (s : State) : (s.tick).ivLen = s.ivLen := by unfold State.tick; split <;> simp [*]
@[simp] theorem State.tick_ksnLen (s : State) : (s.tick).ksnLen = s.ksnLen := by unfold State.tick; split <;> simp [*]
@[simp] theorem State.tick_unLen (s : State) : (s.tick).unLen = s.unLen := by unfold State.tick; split <;> simp [*]
@[simp] theorem State.tick_aux0Len (s : State) : (s.tick).aux0Len = s.aux0Len := by unfold State.tick; split <;> simp [*]
@[simp] theorem State.tick_aux1Len (s : State) : (s.tick).aux1Len = s.aux1Len := by unfold State.tick; split <;> simp [*]
@[simp] theorem State.tick_aux2Len (s : State) : (s.tick).aux2Len = s.aux2Len := by unfold State.tick; split <;> simp [*]
@[simp] theorem State.tick_panLen (s : State) : (s.tick).panLen = s.panLen := by unfold State.tick; split <;> simp [*]
@[simp] theorem State.tick_psnLen (s : State) : (s.tick).psnLen = s.psnLen := by unfold State.tick; split <;> simp [*]
@[simp] theorem State.tick_pinLen (s : State) : (s.tick).pinLen = s.pinLen := by unfold State.tick; split <;> simp [*]
@[simp] theorem State.tick_dinLen (s : State) : (s.tick).dinLen = s.dinLen := by unfold State.tick; split <;> simp [*]
@[simp] theorem State.tick_doutLen (s : State) : (s.tick).doutLen = s.doutLen := by unfold State.tick; split <;> simp [*]
@[simp] theorem State.tick_mem (s : State) : (s.tick).mem = s.mem := by unfold State.tick; split <;> simp [*]
@[simp] theorem State.tick_script (s : State) : (s.tick).script = s.script := by unfold State.tick; split <;> simp [*]
@[simp] theorem State.tick_pos (s : State) : (s.tick).pos = s.pos := by unfold State.tick; split <;> simp [*]
@[simp] theorem State.tick_locals (s : State) : (s.tick).locals = s.locals := by unfold State.tick; split <;> simp [*]
@[simp] theorem State.tick_rdbWords (s : State) : (s.tick).rdbWords = s.rdbWords := by unfold State.tick; split <;> simp [*]
@[simp] theorem State.tick_strings (s : State) : (s.tick).strings = s.strings := by unfold State.tick; split <;> simp [*]
@[simp] theorem State.tick_resp (s : State) : (s.tick).resp = s.resp := by unfold State.tick; split <;> simp [*]
@[simp] theorem State.tick_latencies (s : State) : (s.tick).latencies = s.latencies := by unfold State.tick; split <;> simp [*]
@[simp] theorem State.tick_busyLeft (s : State) : (s.tick).busyLeft = if s.st = .busy then s.busyLeft - 1 else s.busyLeft := by unfold State.tick; split <;> simp [*]
@[simp] theorem State.tick_rngQueue (s : State) : (s.tick).rngQueue = s.rngQueue := by unfold State.tick; split <;> simp [*]
@[simp] theorem State.tick_rngPos (s : State) : (s.tick).rngPos = s.rngPos := by unfold State.tick; split <;> simp [*]
@[simp] theorem State.tick_rngSilent (s : State) : (s.tick).rngSilent = s.rngSilent := by unfold State.tick; split <;> simp [*]
@[simp] theorem State.tick_rngDown (s : State) : (s.tick).rngDown = s.rngDown := by unfold State.tick; split <;> simp [*]
@[simp] theorem State.tick_resetIn (s : State) : (s.tick).resetIn = s.resetIn := by unfold State.tick; split <;> simp [*]
@[simp] theorem State.tick_dataSize (s : State) : (s.tick).dataSize = s.dataSize := by unfold State.tick; split <;> simp [*]

/-! ## setLen -/

@[simp] theorem State.setLen_st (s : State) (b : Buf) (v : Word) : (s.setLen b v).st = s.st := by cases b <;> rfl
@[simp] theorem State.setLen_vfail (s : State) (b : Buf) (v : Word) : (s.setLen b v).vfail = s.vfail := by cases b <;> rfl
@[simp] theorem State.setLen_parok (s : State) (b : Buf) (v : Word) : (s.setLen b v).parok = s.parok := by cases b <;> rfl
@[simp] theorem State.setLen_irqPending (s : State) (b : Buf) (v : Word) : (s.setLen b v).irqPending = s.irqPending := by cases b <;> rfl
@[simp] theorem State.setLen_err (s : State) (b : Buf) (v : Word) : (s.setLen b v).err = s.err := by cases b <;> rfl
@[simp] theorem State.setLen_cmd (s : State) (b : Buf) (v : Word) : (s.setLen b v).cmd = s.cmd := by cases b <;> rfl
@[simp] theorem State.setLen_ie (s : State) (b : Buf) (v : Word) : (s.setLen b v).ie = s.ie := by cases b <;> rfl
@[simp] theorem State.setLen_atc (s : State) (b : Buf) (v : Word) : (s.setLen b v).atc = s.atc := by cases b <;> rfl
@[simp] theorem State.setLen_doutLen (s : State) (b : Buf) (v : Word) : (s.setLen b v).doutLen = s.doutLen := by cases b <;> rfl
@[simp] theorem State.setLen_mem (s : State) (b : Buf) (v : Word) : (s.setLen b v).mem = s.mem := by cases b <;> rfl
@[simp] theorem State.setLen_script (s : State) (b : Buf) (v : Word) : (s.setLen b v).script = s.script := by cases b <;> rfl
@[simp] theorem State.setLen_pos (s : State) (b : Buf) (v : Word) : (s.setLen b v).pos = s.pos := by cases b <;> rfl
@[simp] theorem State.setLen_locals (s : State) (b : Buf) (v : Word) : (s.setLen b v).locals = s.locals := by cases b <;> rfl
@[simp] theorem State.setLen_rdbWords (s : State) (b : Buf) (v : Word) : (s.setLen b v).rdbWords = s.rdbWords := by cases b <;> rfl
@[simp] theorem State.setLen_strings (s : State) (b : Buf) (v : Word) : (s.setLen b v).strings = s.strings := by cases b <;> rfl
@[simp] theorem State.setLen_resp (s : State) (b : Buf) (v : Word) : (s.setLen b v).resp = s.resp := by cases b <;> rfl
@[simp] theorem State.setLen_latencies (s : State) (b : Buf) (v : Word) : (s.setLen b v).latencies = s.latencies := by cases b <;> rfl
@[simp] theorem State.setLen_busyLeft (s : State) (b : Buf) (v : Word) : (s.setLen b v).busyLeft = s.busyLeft := by cases b <;> rfl
@[simp] theorem State.setLen_rngQueue (s : State) (b : Buf) (v : Word) : (s.setLen b v).rngQueue = s.rngQueue := by cases b <;> rfl
@[simp] theorem State.setLen_rngPos (s : State) (b : Buf) (v : Word) : (s.setLen b v).rngPos = s.rngPos := by cases b <;> rfl
@[simp] theorem State.setLen_rngSilent (s : State) (b : Buf) (v : Word) : (s.setLen b v).rngSilent = s.rngSilent := by cases b <;> rfl
@[simp] theorem State.setLen_rngDown (s : State) (b : Buf) (v : Word) : (s.setLen b v).rngDown = s.rngDown := by cases b <;> rfl
@[simp] theorem State.setLen_resetIn (s : State) (b : Buf) (v : Word) : (s.setLen b v).resetIn = s.resetIn := by cases b <;> rfl
@[simp] theorem State.setLen_dataSize (s : State) (b : Buf) (v : Word) : (s.setLen b v).dataSize = s.dataSize := by cases b <;> rfl

/-! ## Lengths and derived reads -/

/-- DATA_MAX is a multiple of 16 from 384 to 4096, DOUT_MAX 64 more (R9). -/
theorem State.dataMax_range (s : State) : 384 ≤ s.dataMax ∧ s.dataMax ≤ 4096 ∧ s.dataMax % 16 = 0 := by
  have := s.dataSize.isLt
  simp only [State.dataMax, Config.dataMaxOf]
  omega

/-- States of one implementation have the same DATA_MAX, DOUT_MAX and capacities. -/
theorem State.dataMax_congr {s t : State} (h : t.dataSize = s.dataSize) : t.dataMax = s.dataMax := by
  simp [State.dataMax, h]
theorem State.doutMax_congr {s t : State} (h : t.dataSize = s.dataSize) : t.doutMax = s.doutMax := by
  simp [State.doutMax, State.dataMax_congr h]
theorem State.cap_congr {s t : State} (h : t.dataSize = s.dataSize) (b : Buf) : t.cap b = s.cap b := by
  simp [State.cap, State.dataMax_congr h]

/-- The length register of `b` holds the low 8 or 16 bits written, every other length is as before. -/
theorem State.len_setLen (s : State) (b c : Buf) (v : Word) :
    (s.setLen b v).len c = if c = b then (if b = .din then v.toNat % 65536 else v.toNat % 256) else s.len c := by
  cases b <;> cases c <;> simp [State.setLen, State.len, BitVec.toNat_setWidth]

/-- States with the same length registers have the same lengths. -/
theorem State.len_congr {s t : State} (h0 : t.key0Len = s.key0Len) (h1 : t.key1Len = s.key1Len) (h2 : t.ivLen = s.ivLen)
    (h3 : t.ksnLen = s.ksnLen) (h4 : t.unLen = s.unLen) (h5 : t.aux0Len = s.aux0Len) (h6 : t.aux1Len = s.aux1Len)
    (h7 : t.aux2Len = s.aux2Len) (h8 : t.panLen = s.panLen) (h9 : t.psnLen = s.psnLen) (h10 : t.pinLen = s.pinLen)
    (h11 : t.dinLen = s.dinLen) (b : Buf) : t.len b = s.len b := by
  cases b <;> simp only [State.len, *]

@[simp] theorem State.setDout_len (s : State) (v : Bytes) (b : Buf) : (s.setDout v).len b = s.len b := by cases b <;> rfl
@[simp] theorem State.complete_len (s : State) (q : SeqState) (e : BitVec 8) (vf pk : Bool) (v : Bytes) (b : Buf) : (s.complete q e vf pk v).len b = s.len b := by cases b <;> rfl
@[simp] theorem State.doneWith_len (s : State) (vf pk : Bool) (v : Bytes) (b : Buf) : (s.doneWith vf pk v).len b = s.len b := by cases b <;> rfl
@[simp] theorem State.raised_len (s : State) (k : ErrKind) (b : Buf) : (s.raised k).len b = s.len b := by cases b <;> rfl
@[simp] theorem State.afterDraws_len (s : State) (n : Nat) (b : Buf) : (s.afterDraws n).len b = s.len b := by cases b <;> rfl
@[simp] theorem State.acked_len (s : State) (b : Buf) : (s.acked).len b = s.len b := by cases b <;> rfl
@[simp] theorem State.started_len (s : State) (b : Buf) : (s.started).len b = s.len b := by cases b <;> rfl
@[simp] theorem State.sampled_len (s : State) (b : Buf) : (s.sampled).len b = s.len b := by cases b <;> rfl
@[simp] theorem State.nextLine_len (s : State) (b : Buf) : (s.nextLine).len b = s.len b := by cases b <;> rfl
@[simp] theorem State.goto_len (s : State) (l : Nat) (b : Buf) : (s.goto l).len b = s.len b := by cases b <;> rfl
@[simp] theorem State.setLocal_len (s : State) (x : Nat) (v : Word) (b : Buf) : (s.setLocal x v).len b = s.len b := by cases b <;> rfl
@[simp] theorem State.takeString_len (s : State) (x n : Nat) (b : Buf) : (s.takeString x n).len b = s.len b := by cases b <;> rfl
@[simp] theorem State.readNextWord_len (s : State) (b : Buf) : (s.readNextWord).len b = s.len b := by cases b <;> rfl
@[simp] theorem State.armed_len (s : State) (w : Word) (b : Buf) : (s.armed w).len b = s.len b := by cases b <;> rfl
@[simp] theorem State.tick_len (s : State) (b : Buf) : s.tick.len b = s.len b := by
  unfold State.tick; split <;> cases b <;> rfl
@[simp] theorem State.coreReset_len (s : State) (b : Buf) : s.coreReset.len b = 0 := by cases b <;> rfl
@[simp] theorem State.zeroized_len (s : State) (b : Buf) : s.zeroized.len b = 0 := by cases b <;> rfl

/-- No completion code is 0 (R331). -/
theorem ErrKind.code_ne_zero (k : ErrKind) : k.code ≠ 0x00 := by cases k <;> decide

/-- Different kinds have different codes (R331). -/
theorem ErrKind.code_inj {k j : ErrKind} (h : k.code = j.code) : k = j := by
  cases k <;> cases j <;> first | rfl | exact absurd h (by decide)

end Sys2Proof.Machine
end

