-- ==== Sys2Proof/Laws/Completion.lean ====
section
/-! SUPPORT. What the shared operations of a completion do, once each: `done`, `raise`, the draws, ACK, START, ZEROIZE
and reset. -/

namespace Sys2Proof.Machine

/-- DOUT and DOUT_LEN after `setDout` (R36). -/
theorem doutIs_of_mem {t s : State} {v : Bytes} (hm : t.mem = (s.setDout v).mem) (hl : t.doutLen = BitVec.ofNat 16 v.length)
    (hd : t.dataSize = s.dataSize) (h : v.length ≤ s.doutMax) : DoutIs t v where
  len := by
    have hm : s.doutMax < 2 ^ 16 := by
      have := s.dataMax_range
      unfold State.doutMax
      omega
    exact (congrArg BitVec.toNat hl).trans ((BitVec.toNat_ofNat _ _).trans (Nat.mod_eq_of_lt (Nat.lt_of_le_of_lt h hm)))
  bytes k hk := by
    have hr := State.setDout_read s v (doutBase + k) h
    rw [State.doutMax_congr hd] at hk
    rw [if_pos ⟨Nat.le_add_right _ _, Nat.add_lt_add_left hk _⟩, Nat.add_sub_cancel_left] at hr
    exact (congrArg (fun m : Memory => m.read (doutBase + k)) hm).trans hr

theorem setDout_read_outside (s : State) (v : Bytes) (a : Nat) (h : v.length ≤ s.doutMax) (ha : ¬ s.InDout a) :
    (s.setDout v).mem.read a = s.mem.read a := by
  rw [State.setDout_read s v a h, if_neg ha]

/-- `done(v)` after `n` draws (R334). -/
theorem doneWith_spec (s : State) (vf pk : Bool) (v : Bytes) (n : Nat) (h : v.length ≤ s.doutMax) :
    DoneWith s ((s.afterDraws n).doneWith vf pk v) vf pk v n where
  st := rfl
  err := rfl
  vfail := rfl
  parok := rfl
  irqPending := rfl
  dout := doutIs_of_mem (s := s.afterDraws n) (by simp) (by simp) rfl h
  kept :=
    { cmd := rfl, ie := rfl, atc := rfl, len := fun b => by simp
      mem := fun a ha => by simpa using setDout_read_outside (s.afterDraws n) v a h ha, dataSize := rfl }
  host := ⟨rfl, rfl, rfl, rfl, rfl, rfl, rfl, rfl, rfl, rfl, rfl⟩
  drew := ⟨rfl, rfl⟩

/-- `done(v)` without a draw (R334). -/
theorem doneWith_spec_zero (s : State) (vf pk : Bool) (v : Bytes) (h : v.length ≤ s.doutMax) :
    DoneWith s (s.doneWith vf pk v) vf pk v 0 := doneWith_spec s vf pk v 0 h

/-- `raise K` (R335). -/
theorem raised_spec (s : State) (k : ErrKind) : ErrorWith s (s.raised k) k.code where
  st := rfl
  err := rfl
  vfail := rfl
  parok := rfl
  irqPending := rfl
  dout := doutIs_of_mem (s := s) (v := []) (by simp) (by simp) rfl (by simp)
  kept :=
    { cmd := rfl, ie := rfl, atc := rfl, len := fun b => by simp
      mem := fun a ha => by simpa using setDout_read_outside s [] a (by simp) ha, dataSize := rfl }
  host := ⟨rfl, rfl, rfl, rfl, rfl, rfl, rfl, rfl, rfl, rfl, rfl⟩
  drew := ⟨rfl, rfl⟩

/-- The output of a completion, as `DOUT[0..DOUT_LEN)`. -/
theorem output_of_doutIs {t : State} {v : Bytes} (h : DoutIs t v) (hv : v.length ≤ t.doutMax) : t.output = v := by
  refine List.ext_getElem (by simp [State.output, h.len]) fun k hk hk' => ?_
  have e := h.bytes k (by omega)
  rw [State.doutByte] at e
  rw [List.getD_eq_getElem _ _ hk'] at e
  rw [← e]
  simp [State.output, Memory.readBytes]

theorem done_eq (v : Bytes) (s : State) : done v s = .next (s.doneWith false false v) := rfl
theorem doneVfail_eq (b : Bool) (v : Bytes) (s : State) : doneVfail b v s = .next (s.doneWith b false v) := rfl
theorem doneParok_eq (b : Bool) (v : Bytes) (s : State) : doneParok b v s = .next (s.doneWith false b v) := rfl
theorem raise_eq (k : ErrKind) (s : State) : raise k s = .next (s.raised k) := rfl
@[simp] theorem complete_ok (v : Bytes) (s : State) : complete (.ok v) s = done v s := rfl
@[simp] theorem complete_error (k : ErrKind) (s : State) : complete (.error k) s = raise k s := rfl

/-! ## The random port -/

@[simp] theorem drawn_length (s : State) (n : Nat) : (s.drawn n).length = n := by simp [State.drawn]

theorem drawn_getD (s : State) (n k : Nat) (h : k < n) : (s.drawn n).getD k 0 = s.rngAt k := by
  simp [State.drawn, h]

/-- Draw number `k` after `n` draws is draw number `n + k` (R382). -/
theorem rngAt_afterDraws (s : State) (n k : Nat) : (s.afterDraws n).rngAt k = s.rngAt (n + k) := by
  simp [State.rngAt, List.getD_eq_getElem?_getD, List.getElem?_drop, Nat.add_assoc]

/-! ## Operands -/

@[simp] theorem operand_length (s : State) (b : Buf) : (s.operand b).length = s.len b := by simp [State.operand]

theorem operand_getD (s : State) (b : Buf) (k : Nat) (h : k < s.len b) : (s.operand b).getD k 0 = s.byte b k :=
  Memory.readBytes_getD _ _ _ _ h

/-- A buffer's content is its length and its bytes below it (R30). -/
theorem operand_congr (s t : State) (b : Buf) (hl : s.len b = t.len b)
    (h : ∀ k, k < s.len b → s.byte b k = t.byte b k) : s.operand b = t.operand b := by
  unfold State.operand
  rw [← hl]
  exact Memory.readBytes_congr _ _ _ _ h

/-- The test of a key length (R93). -/
theorem keyLenOk_iff (alg : Alg) (n : Nat) : keyLenOk alg n = true ↔ LegalKey alg n := by
  cases alg <;> simp [keyLenOk, LegalKey, or_assoc]

/-- The test of a digit buffer (R38). -/
theorem digitsOk_iff (s : State) (b : Buf) : s.digitsOk b = true ↔ LegalDigits s b := by
  simp only [State.digitsOk, LegalDigits, Bool.and_eq_true, decide_eq_true_eq, List.all_eq_true]
  refine and_congr_right fun _ => ⟨fun h k hk => ?_, fun h d hd => ?_⟩
  · have := h ((s.operand b).getD k 0) (by
      rw [List.getD_eq_getElem _ _ (by simpa using hk)]
      exact List.getElem_mem _)
    rwa [operand_getD s b k hk] at this
  · obtain ⟨k, hk, rfl⟩ := List.mem_iff_getElem.mp hd
    rw [operand_length] at hk
    have := h k hk
    rwa [← operand_getD s b k hk, List.getD_eq_getElem _ _ (by simpa using hk)] at this

/-- The test of whole data blocks (R151 check 3). -/
theorem dinWhole_iff (s : State) (alg : Alg) : s.dinWhole alg = true ↔ LegalData s alg := by
  simp [State.dinWhole, State.dinFits, LegalData]

/-- The test of the IV (R151 check 2). -/
theorem ivOk_iff (s : State) (m : Mode) (alg : Alg) : s.ivOk m alg = true ↔ LegalIv s alg m := by
  simp [State.ivOk, LegalIv]

/-- The test of the PAN where a format uses it (R253 check 3). -/
theorem panOk_iff (s : State) (f : PinFormat) : s.panOk f = true ↔ LegalPan f s := by
  cases f <;> simp [State.panOk, PinFormat.usesPan, LegalPan, digitsOk_iff]

/-! ## CTRL and reset -/

/-- ZEROIZE (R373). -/
theorem zeroized_spec (s : State) : CoreCleared s.zeroized where
  st := rfl
  vfail := rfl
  parok := rfl
  irqPending := rfl
  err := rfl
  cmd := rfl
  atc := rfl
  len b := by simp
  doutLen := rfl
  mem a := rfl

/-- Reset (R370). -/
theorem coreReset_spec (s : State) : CoreCleared s.coreReset where
  st := rfl
  vfail := rfl
  parok := rfl
  irqPending := rfl
  err := rfl
  cmd := rfl
  atc := rfl
  len b := by simp
  doutLen := rfl
  mem a := rfl

/-- The start of a command (R27 step 3). -/
theorem started_spec (s : State) : StartedFrom s s.started where
  st := rfl
  vfail := rfl
  parok := rfl
  irqPending := rfl
  err := rfl
  dout := doutIs_of_mem (s := s) (v := []) (by simp) (by simp) rfl (by simp)
  kept :=
    { cmd := rfl, ie := rfl, atc := rfl, len := fun b => by simp
      mem := fun a ha => by simpa using setDout_read_outside s [] a (by simp) ha, dataSize := rfl }

/-- ACK in DONE or ERROR (R27 step 2). -/
theorem acked_spec (s : State) : AckedFrom s s.acked where
  st := rfl
  vfail := rfl
  parok := rfl
  irqPending := rfl
  err := rfl
  doutLen := rfl
  mem a := rfl
  kept := { cmd := rfl, ie := rfl, atc := rfl, len := fun b => by simp, mem := fun a _ => rfl, dataSize := rfl }

theorem ack_eq (s : State) : s.ack = if s.st = .done ∨ s.st = .error then s.acked else s := by
  unfold State.ack
  split <;> simp [*]

/-- START outside BUSY: the start of a command and the taking of its LATENCY from the environment (R27 step 3, R380). -/
theorem start_eq (s : State) :
    s.start =
      if s.st = .busy then s
      else { s.started with busyLeft := s.latencies.headD 0, latencies := s.latencies.tail } := by
  unfold State.start
  split <;> simp [*]

end Sys2Proof.Machine
end

