-- ==== Sys2Proof/Laws/Commands.lean ====
section
/-! SUPPORT. What each shared command operation can do, once each: which check raises what, and the value it completes
with when all checks pass. Callers cite these and do not unfold the operation. -/

namespace Sys2Proof.Machine

theorem key0Ok_iff (s : State) (alg : Alg) : s.key0Ok alg = true ↔ LegalKey alg (s.len .key0) := keyLenOk_iff _ _
theorem key0Ok_false (s : State) (alg : Alg) : s.key0Ok alg = false ↔ ¬ LegalKey alg (s.len .key0) := by
  rw [← key0Ok_iff, Bool.not_eq_true]
theorem key16_iff (s : State) : s.key16 = true ↔ s.len .key0 = 16 := by simp [State.key16]
theorem dinFits_iff (s : State) : s.dinFits = true ↔ s.len .din ≤ s.dataMax := by simp [State.dinFits]
theorem cardOk_iff (s : State) : s.cardOk = true ↔ LegalDigits s .pan ∧ LegalDigits s .psn := by
  simp [State.cardOk, digitsOk_iff]
theorem ksn10_iff (s : State) : s.ksn10 = true ↔ s.len .ksn = 10 := by simp [State.ksn10]

/-- A cipher command (R150, R151). -/
theorem cipher_spec (alg : Alg) (m : Mode) (d : Dir) (s : State) :
    (¬ LegalKey alg (s.len .key0) → cipher alg m d s = raise .invalidKeyLength s) ∧
    (LegalKey alg (s.len .key0) → ¬ LegalIv s alg m → cipher alg m d s = raise .invalidOperand s) ∧
    (LegalKey alg (s.len .key0) → LegalIv s alg m → ¬ LegalData s alg →
      cipher alg m d s = raise .invalidDataLength s) ∧
    (CipherReady s alg m → cipher alg m d s =
      done (modeBlocks m d alg (s.operand .key0) (s.operand .iv) (s.dinBlocks alg)).flatten s) := by
  simp only [CipherReady, ← key0Ok_iff, ← ivOk_iff, ← dinWhole_iff]
  unfold cipher
  cases s.key0Ok alg <;> cases s.ivOk m alg <;> cases s.dinWhole alg <;> simp

/-- CBC-MAC (R181). -/
theorem macCbc_spec (alg : Alg) (s : State) :
    (¬ LegalKey alg (s.len .key0) → macCbc alg s = raise .invalidKeyLength s) ∧
    (LegalKey alg (s.len .key0) → s.len .iv ≠ alg.block → macCbc alg s = raise .invalidOperand s) ∧
    (LegalKey alg (s.len .key0) → s.len .iv = alg.block → ¬ LegalData s alg ∨ s.len .din = 0 →
      macCbc alg s = raise .invalidDataLength s) ∧
    (LegalKey alg (s.len .key0) → s.len .iv = alg.block → LegalData s alg → s.len .din ≠ 0 → macCbc alg s =
      done (chain (blockE alg (s.operand .key0)) (s.operand .iv) (s.dinBlocks alg)) s) := by
  simp only [← key0Ok_iff, ← dinWhole_iff]
  unfold macCbc
  cases s.key0Ok alg <;> cases s.dinWhole alg <;> by_cases h : s.len .iv = alg.block <;>
    by_cases h0 : s.len .din = 0 <;> simp [h, h0]

/-- MAC.RETAIL (R183). -/
theorem macRetail_spec (s : State) :
    (s.len .key0 ≠ 16 → execMacRetail s = raise .invalidKeyLength s) ∧
    (s.len .key0 = 16 → s.len .iv ≠ 0 → s.len .iv ≠ 8 → execMacRetail s = raise .invalidOperand s) ∧
    (s.len .key0 = 16 → s.len .iv = 0 ∨ s.len .iv = 8 → s.len .din > s.dataMax →
      execMacRetail s = raise .invalidDataLength s) ∧
    (s.len .key0 = 16 → s.len .iv = 0 ∨ s.len .iv = 8 → s.len .din ≤ s.dataMax →
      execMacRetail s = done (rmac (s.operand .key0) s.retailIv (s.operand .din)) s) := by
  simp only [gt_iff_lt, ← Nat.not_le, ← dinFits_iff, ne_eq, ← key16_iff]
  unfold execMacRetail
  cases s.key16 <;> cases s.dinFits <;> by_cases h : s.len .iv = 0 <;> by_cases h8 : s.len .iv = 8 <;> simp [h, h8]

/-- KD.SK (R203 to R205). -/
theorem sessionKeyCommand_spec (m : Method) (s : State) :
    (s.len .key0 ≠ 16 → sessionKeyCommand m s = raise .invalidKeyLength s) ∧
    (s.len .key0 = 16 → sessionKeyCommand m s = done (sessionKeyFor m (s.operand .key0) s.atc) s) := by
  simp only [ne_eq, ← key16_iff]
  unfold sessionKeyCommand
  cases s.key16 <;> simp

/-- AC.GEN (R232). -/
theorem acGen_spec (ty : CType) (m : Method) (s : State) :
    (s.len .key0 ≠ 16 → acGen ty m s = raise .invalidKeyLength s) ∧
    (s.len .key0 = 16 → ¬ ((LegalDigits s .pan ∧ LegalDigits s .psn) ∧ s.len .un ≤ 8) →
      acGen ty m s = raise .invalidOperand s) ∧
    (s.len .key0 = 16 → LegalDigits s .pan ∧ LegalDigits s .psn → s.len .un ≤ 8 → ¬ s.len .din ≤ s.dataMax →
      acGen ty m s = raise .invalidDataLength s) ∧
    (s.len .key0 = 16 → LegalDigits s .pan ∧ LegalDigits s .psn → s.len .un ≤ 8 → s.len .din ≤ s.dataMax →
      acGen ty m s = done (acRecord ty (s.cryptogram m) (s.acSessionKey m) s.acMacInput) s) := by
  simp only [ne_eq, ← key16_iff, ← cardOk_iff, ← dinFits_iff]
  unfold acGen
  cases s.key16 <;> cases s.cardOk <;> cases s.dinFits <;> by_cases h : s.len .un ≤ 8 <;> simp [h]

/-- AC.VERIFY (R236). -/
theorem acVerify_spec (m : Method) (s : State) :
    (s.len .key0 ≠ 16 → acVerify m s = raise .invalidKeyLength s) ∧
    (s.len .key0 = 16 → ¬ (s.len .aux0 = 8 ∧ (LegalDigits s .pan ∧ LegalDigits s .psn) ∧ s.len .un ≤ 8) →
      acVerify m s = raise .invalidOperand s) ∧
    (s.len .key0 = 16 → s.len .aux0 = 8 → LegalDigits s .pan ∧ LegalDigits s .psn → s.len .un ≤ 8 →
      ¬ s.len .din ≤ s.dataMax → acVerify m s = raise .invalidDataLength s) ∧
    (s.len .key0 = 16 → s.len .aux0 = 8 → LegalDigits s .pan ∧ LegalDigits s .psn → s.len .un ≤ 8 →
      s.len .din ≤ s.dataMax → acVerify m s =
        doneVfail (s.cryptogram m != s.operand .aux0) (testByte (!(s.cryptogram m != s.operand .aux0))) s) := by
  simp only [ne_eq, ← key16_iff, ← cardOk_iff, ← dinFits_iff]
  unfold acVerify vfailFlag
  cases s.key16 <;> cases s.cardOk <;> cases s.dinFits <;> by_cases h : s.len .un ≤ 8 <;>
    by_cases h8 : s.len .aux0 = 8 <;> simp [h, h8]

/-- The PIN checks (R253). -/
theorem pinLenOk_iff (s : State) : s.pinLenOk = true ↔ 4 ≤ s.len .pin ∧ s.len .pin ≤ 12 := by simp [State.pinLenOk]

theorem pinDigitsOk_iff (s : State) (h : s.len .pin ≤ 12) : s.pinDigitsOk = true ↔ LegalDigits s .pin := by
  have hc : s.len .pin ≤ s.cap .pin := Nat.le_trans h (show 12 ≤ 16 by decide)
  rw [← digitsOk_iff]
  simp [State.pinDigitsOk, State.digitsOk, hc]

/-- PIN.CREATE (R253, R254). -/
theorem pinCreate_spec (f : PinFormat) (padding : List Nibble) (n : Nat) (s : State) :
    (¬ (4 ≤ s.len .pin ∧ s.len .pin ≤ 12) → pinCreate f padding n s = raise .invalidPinLength s) ∧
    (4 ≤ s.len .pin ∧ s.len .pin ≤ 12 → ¬ (LegalDigits s .pin ∧ LegalPan f s) →
      pinCreate f padding n s = raise .invalidOperand s) ∧
    (4 ≤ s.len .pin ∧ s.len .pin ≤ 12 → LegalDigits s .pin → LegalPan f s → pinCreate f padding n s =
      done (maskPan f (clearBlock f (s.operand .pin) padding) (s.operand .pan)) (s.afterDraws n)) := by
  by_cases h : 4 ≤ s.len .pin ∧ s.len .pin ≤ 12
  · have h1 := (pinLenOk_iff s).mpr h
    simp only [← pinDigitsOk_iff s h.2, ← panOk_iff]
    unfold pinCreate
    rw [h1]
    cases s.pinDigitsOk <;> cases s.panOk f <;> simp [h]
  · have h1 : s.pinLenOk = false := by rw [← Bool.not_eq_true, pinLenOk_iff]; exact h
    unfold pinCreate
    rw [h1]
    simp [h]

/-- PIN.EXTRACT (R263). -/
theorem pinExtract_spec (f : PinFormat) (s : State) :
    (¬ (s.len .aux0 = 8 ∧ LegalPan f s) → pinExtract f s = raise .invalidOperand s) ∧
    (s.len .aux0 = 8 → LegalPan f s →
      pinExtract f s = complete (extractPin f (s.operand .aux0) (s.operand .pan)) s) := by
  simp only [← panOk_iff]
  unfold pinExtract
  cases s.panOk f <;> by_cases h : s.len .aux0 = 8 <;> simp [h]

/-- PIN.DECRYPT (R265). -/
theorem pinDecrypt_spec (f : PinFormat) (s : State) :
    (¬ LegalKey .des (s.len .key0) → pinDecrypt f s = raise .invalidKeyLength s) ∧
    (LegalKey .des (s.len .key0) → ¬ (s.len .aux0 = 8 ∧ LegalPan f s) → pinDecrypt f s = raise .invalidOperand s) ∧
    (LegalKey .des (s.len .key0) → s.len .aux0 = 8 → LegalPan f s → pinDecrypt f s =
      complete (extractPin f (blockD .des (s.operand .key0) (s.operand .aux0)) (s.operand .pan)) s) := by
  simp only [← panOk_iff, ← key0Ok_iff]
  unfold pinDecrypt
  cases s.key0Ok .des <;> cases s.panOk f <;> by_cases h : s.len .aux0 = 8 <;> simp [h]

/-- KEY.GEN (R285). -/
theorem keyGen_spec (alg : Alg) (arg : Nat) (s : State) :
    (¬ LegalKey alg (8 * arg) → keyGen alg arg s = raise .invalidKeyLength s) ∧
    (LegalKey alg (8 * arg) →
      keyGen alg arg s = done (fixParity (s.drawn (8 * arg))) (s.afterDraws (8 * arg))) := by
  simp only [← keyLenOk_iff]
  unfold keyGen keyCodeOk
  cases keyLenOk alg (8 * arg) <;> simp

/-- KEY.SPLIT (R287). -/
theorem keySplit_spec (alg : Alg) (n : Nat) (s : State) :
    (¬ LegalKey alg (s.len .key0) → keySplit alg n s = raise .invalidKeyLength s) ∧
    (LegalKey alg (s.len .key0) → n < 2 ∨ n > 9 → keySplit alg n s = raise .componentCountOutOfRange s) ∧
    (LegalKey alg (s.len .key0) → ¬ (n < 2 ∨ n > 9) → keySplit alg n s =
      done (keyShare alg (s.operand .key0) (splitKey (s.operand .key0) n (s.drawn (s.splitDraws n))))
        (s.afterDraws (s.splitDraws n))) := by
  simp only [← key0Ok_iff]
  unfold keySplit
  cases s.key0Ok alg <;> by_cases h : n < 2 ∨ n > 9
  · simp
  · simp
  · exact ⟨by simp, fun _ _ => if_pos h, fun _ g => absurd h g⟩
  · exact ⟨by simp, fun _ g => absurd g h, fun _ _ => if_neg h⟩

/-- A string of records parses to its records (R289). -/
theorem parseRecords_flatMap (vs : List Bytes) (h : ∀ v ∈ vs, v.length < 256) :
    parseRecords vs.length (recordsOf vs) = some vs := by
  induction vs with
  | nil => rfl
  | cons v r ih =>
    have hv : (BitVec.ofNat 8 v.length).toNat = v.length := by
      rw [BitVec.toNat_ofNat]
      exact Nat.mod_eq_of_lt (h v (by simp))
    have := ih fun x hx => h x (by simp [hx])
    simp only [recordsOf] at this
    simp [recordsOf, parseRecords, hv, this]

/-- What parses is the string of its records (R289). -/
theorem parseRecords_some (n : Nat) (d : Bytes) (vs : List Bytes) (h : parseRecords n d = some vs) :
    vs.length = n ∧ (∀ v ∈ vs, v.length < 256) ∧ d = recordsOf vs := by
  induction n generalizing d vs with
  | zero =>
    cases d with
    | nil => simp [parseRecords] at h; subst h; simp [recordsOf]
    | cons x r => simp [parseRecords] at h
  | succ n ih =>
    cases d with
    | nil => simp [parseRecords] at h
    | cons l r =>
      simp only [parseRecords] at h
      split at h
      · rename_i hl
        simp only [Option.map_eq_some_iff] at h
        obtain ⟨ws, hw, rfl⟩ := h
        obtain ⟨h1, h2, h3⟩ := ih _ _ hw
        have hlen : (r.take l.toNat).length = l.toNat := by simp [hl]
        refine ⟨by simp [h1], ?_, ?_⟩
        · intro v hv
          rcases List.mem_cons.mp hv with rfl | hv
          · rw [hlen]; exact l.isLt
          · exact h2 v hv
        · simp only [recordsOf] at h3
          simp only [recordsOf, List.flatMap_cons, hlen, ← h3, BitVec.ofNat_toNat, BitVec.setWidth_eq,
            List.cons_append, List.take_append_drop]
      · simp at h

/-- Steps 3 and 4 of KEY.COMBINE on parsed components (R290). -/
theorem combineComponents_spec (alg : Alg) (vs : List Bytes) :
    ((¬ ∀ v ∈ vs, v.length = (vs.headD []).length) →
      combineComponents alg vs = .error .componentLengthMismatch) ∧
    ((∀ v ∈ vs, v.length = (vs.headD []).length) → ¬ LegalKey alg (vs.headD []).length →
      combineComponents alg vs = .error .invalidKeyLength) ∧
    ((∀ v ∈ vs, v.length = (vs.headD []).length) → LegalKey alg (vs.headD []).length →
      combineComponents alg vs = .ok (xorAll vs ++ kcv alg (xorAll vs))) := by
  simp only [← keyLenOk_iff]
  unfold combineComponents
  by_cases ha : ∀ v ∈ vs, v.length = (vs.headD []).length
  · have hb : vs.all (fun v => v.length == (vs.headD []).length) = true :=
      List.all_eq_true.mpr fun v hv => beq_iff_eq.mpr (ha v hv)
    simp only [hb, Bool.not_true, Bool.false_eq_true, if_false]
    cases keyLenOk alg (vs.headD []).length
    · exact ⟨fun h => absurd ha h, fun _ _ => rfl, fun _ h => absurd h (by simp)⟩
    · exact ⟨fun h => absurd ha h, fun _ h => absurd rfl h, fun _ _ => rfl⟩
  · have hb : vs.all (fun v => v.length == (vs.headD []).length) = false :=
      Bool.eq_false_iff.mpr fun h => ha fun v hv => beq_iff_eq.mp (List.all_eq_true.mp h v hv)
    refine ⟨fun _ => ?_, fun h => absurd h ha, fun h => absurd h ha⟩
    simp only [hb, Bool.not_false, if_true]

/-- KEY.COMBINE (R290). -/
theorem keyCombine_spec (alg : Alg) (n : Nat) (s : State) :
    (n = 0 → keyCombine alg n s = raise .componentCountOutOfRange s) ∧
    (n ≠ 0 → ¬ s.len .din ≤ s.dataMax → keyCombine alg n s = raise .invalidDataLength s) ∧
    (n ≠ 0 → s.len .din ≤ s.dataMax → parseRecords n (s.operand .din) = none →
      keyCombine alg n s = raise .invalidDataLength s) ∧
    ∀ vs, n ≠ 0 → s.len .din ≤ s.dataMax → parseRecords n (s.operand .din) = some vs →
      keyCombine alg n s = complete (combineComponents alg vs) s := by
  simp only [← dinFits_iff]
  unfold keyCombine
  by_cases h : n = 0
  · simp [h]
  · cases s.dinFits <;> simp +contextual [h]

/-- KEY.KCV (R283). -/
theorem keyKcv_spec (alg : Alg) (s : State) :
    (¬ LegalKey alg (s.len .key0) → keyKcv alg s = raise .invalidKeyLength s) ∧
    (LegalKey alg (s.len .key0) → keyKcv alg s = done (kcv alg (s.operand .key0)) s) := by
  simp only [← key0Ok_iff]
  unfold keyKcv
  cases s.key0Ok alg <;> simp

/-- The blocks of the data: each a block, `n` of them (R150). -/
theorem dinBlocks_spec (s : State) (alg : Alg) (h : LegalData s alg) :
    (s.dinBlocks alg).length = s.len .din / alg.block ∧ (∀ x ∈ s.dinBlocks alg, x.length = alg.block) ∧
    ∀ i, alg.block * (i + 1) ≤ s.len .din → (s.dinBlocks alg).getD i [] = blockAt alg.block (s.operand .din) i := by
  have hb : 0 < alg.block := by cases alg <;> decide
  refine ⟨by simp [State.dinBlocks], ?_, fun i hi => ?_⟩
  · refine blocksOf_mem_length _ _ _ ?_
    rw [operand_length]
    exact Nat.mul_div_le _ _
  · refine blocksOf_getD _ _ _ _ ?_
    rw [Nat.mul_comm] at hi
    exact (Nat.le_div_iff_mul_le hb).mpr hi

end Sys2Proof.Machine
end

