-- ==== Sys2Proof/Laws/PerInstr.lean ====
section
/-! SUPPORT. Statements made for every command as syntax, one lemma per constructor. -/

namespace Sys2Proof.Laws.EncodeLegal

open Sys2Proof.Machine

/-- The word of a well-formed command is legal by its fields (R91, R92, R96). -/
def Statement (i : Instr) : Prop := i.wellFormed = true → LegalByFields (encode i)

/-- The field checks of one word. -/
theorem of_limits {w : Word} (l : FieldLimits) (h0 : cmdField w 13 3 = 0 ∧ cmdField w 24 8 = 0)
    (h1 : opcodeLimits (cmdField w 0 8) = some l)
    (h2 : cmdField w 8 1 < l.dir ∧ cmdField w 9 3 < l.mode ∧ cmdField w 12 1 < l.alg ∧ cmdField w 16 4 < l.arg ∧
      cmdField w 20 2 < l.method ∧ cmdField w 22 2 < l.ctype) : LegalByFields w :=
  ⟨h0.1, h0.2, l, h1, h2⟩

theorem desEcbEnc : Statement .desEcbEnc := fun _ => of_limits { dir := 2, mode := 5, alg := 2 } (by decide) rfl (by decide)
theorem desEcbDec : Statement .desEcbDec := fun _ => of_limits { dir := 2, mode := 5, alg := 2 } (by decide) rfl (by decide)
theorem desCbcEnc : Statement .desCbcEnc := fun _ => of_limits { dir := 2, mode := 5, alg := 2 } (by decide) rfl (by decide)
theorem desCbcDec : Statement .desCbcDec := fun _ => of_limits { dir := 2, mode := 5, alg := 2 } (by decide) rfl (by decide)
theorem desCfbEnc : Statement .desCfbEnc := fun _ => of_limits { dir := 2, mode := 5, alg := 2 } (by decide) rfl (by decide)
theorem desCfbDec : Statement .desCfbDec := fun _ => of_limits { dir := 2, mode := 5, alg := 2 } (by decide) rfl (by decide)
theorem desOfbEnc : Statement .desOfbEnc := fun _ => of_limits { dir := 2, mode := 5, alg := 2 } (by decide) rfl (by decide)
theorem desOfbDec : Statement .desOfbDec := fun _ => of_limits { dir := 2, mode := 5, alg := 2 } (by decide) rfl (by decide)
theorem desCtrEnc : Statement .desCtrEnc := fun _ => of_limits { dir := 2, mode := 5, alg := 2 } (by decide) rfl (by decide)
theorem desCtrDec : Statement .desCtrDec := fun _ => of_limits { dir := 2, mode := 5, alg := 2 } (by decide) rfl (by decide)
theorem aesEcbEnc : Statement .aesEcbEnc := fun _ => of_limits { dir := 2, mode := 5, alg := 2 } (by decide) rfl (by decide)
theorem aesEcbDec : Statement .aesEcbDec := fun _ => of_limits { dir := 2, mode := 5, alg := 2 } (by decide) rfl (by decide)
theorem aesCbcEnc : Statement .aesCbcEnc := fun _ => of_limits { dir := 2, mode := 5, alg := 2 } (by decide) rfl (by decide)
theorem aesCbcDec : Statement .aesCbcDec := fun _ => of_limits { dir := 2, mode := 5, alg := 2 } (by decide) rfl (by decide)
theorem aesCfbEnc : Statement .aesCfbEnc := fun _ => of_limits { dir := 2, mode := 5, alg := 2 } (by decide) rfl (by decide)
theorem aesCfbDec : Statement .aesCfbDec := fun _ => of_limits { dir := 2, mode := 5, alg := 2 } (by decide) rfl (by decide)
theorem aesOfbEnc : Statement .aesOfbEnc := fun _ => of_limits { dir := 2, mode := 5, alg := 2 } (by decide) rfl (by decide)
theorem aesOfbDec : Statement .aesOfbDec := fun _ => of_limits { dir := 2, mode := 5, alg := 2 } (by decide) rfl (by decide)
theorem aesCtrEnc : Statement .aesCtrEnc := fun _ => of_limits { dir := 2, mode := 5, alg := 2 } (by decide) rfl (by decide)
theorem aesCtrDec : Statement .aesCtrDec := fun _ => of_limits { dir := 2, mode := 5, alg := 2 } (by decide) rfl (by decide)
theorem macCbcDes : Statement .macCbcDes := fun _ => of_limits { alg := 2 } (by decide) rfl (by decide)
theorem macCbcAes : Statement .macCbcAes := fun _ => of_limits { alg := 2 } (by decide) rfl (by decide)
theorem macRetail : Statement .macRetail := fun _ => of_limits {} (by decide) rfl (by decide)
theorem macCmac : Statement .macCmac := fun _ => of_limits {} (by decide) rfl (by decide)
theorem cmacSubkeys : Statement .cmacSubkeys := fun _ => of_limits {} (by decide) rfl (by decide)
theorem kdUdk : Statement .kdUdk := fun _ => of_limits {} (by decide) rfl (by decide)
theorem kdSkCommon : Statement .kdSkCommon := fun _ => of_limits { method := 3 } (by decide) rfl (by decide)
theorem kdSkVisa : Statement .kdSkVisa := fun _ => of_limits { method := 3 } (by decide) rfl (by decide)
theorem kdSkMc : Statement .kdSkMc := fun _ => of_limits { method := 3 } (by decide) rfl (by decide)
theorem dukptIpek : Statement .dukptIpek := fun _ => of_limits {} (by decide) rfl (by decide)
theorem dukptKeyset : Statement .dukptKeyset := fun _ => of_limits {} (by decide) rfl (by decide)
theorem ksnInc : Statement .ksnInc := fun _ => of_limits {} (by decide) rfl (by decide)
theorem acGenArqcCommon : Statement .acGenArqcCommon := fun _ => of_limits { method := 3, ctype := 3 } (by decide) rfl (by decide)
theorem acGenArqcVisa : Statement .acGenArqcVisa := fun _ => of_limits { method := 3, ctype := 3 } (by decide) rfl (by decide)
theorem acGenArqcMc : Statement .acGenArqcMc := fun _ => of_limits { method := 3, ctype := 3 } (by decide) rfl (by decide)
theorem acGenTcCommon : Statement .acGenTcCommon := fun _ => of_limits { method := 3, ctype := 3 } (by decide) rfl (by decide)
theorem acGenTcVisa : Statement .acGenTcVisa := fun _ => of_limits { method := 3, ctype := 3 } (by decide) rfl (by decide)
theorem acGenTcMc : Statement .acGenTcMc := fun _ => of_limits { method := 3, ctype := 3 } (by decide) rfl (by decide)
theorem acGenAacCommon : Statement .acGenAacCommon := fun _ => of_limits { method := 3, ctype := 3 } (by decide) rfl (by decide)
theorem acGenAacVisa : Statement .acGenAacVisa := fun _ => of_limits { method := 3, ctype := 3 } (by decide) rfl (by decide)
theorem acGenAacMc : Statement .acGenAacMc := fun _ => of_limits { method := 3, ctype := 3 } (by decide) rfl (by decide)
theorem acVerifyCommon : Statement .acVerifyCommon := fun _ => of_limits { method := 3 } (by decide) rfl (by decide)
theorem acVerifyVisa : Statement .acVerifyVisa := fun _ => of_limits { method := 3 } (by decide) rfl (by decide)
theorem acVerifyMc : Statement .acVerifyMc := fun _ => of_limits { method := 3 } (by decide) rfl (by decide)
theorem arpcM1 : Statement .arpcM1 := fun _ => of_limits {} (by decide) rfl (by decide)
theorem arpcM2 : Statement .arpcM2 := fun _ => of_limits {} (by decide) rfl (by decide)
theorem pinCreateIso0 : Statement .pinCreateIso0 := fun _ => of_limits { arg := 5 } (by decide) rfl (by decide)
theorem pinCreateIso1 : Statement .pinCreateIso1 := fun _ => of_limits { arg := 5 } (by decide) rfl (by decide)
theorem pinCreateIso2 : Statement .pinCreateIso2 := fun _ => of_limits { arg := 5 } (by decide) rfl (by decide)
theorem pinCreateIso3 : Statement .pinCreateIso3 := fun _ => of_limits { arg := 5 } (by decide) rfl (by decide)
theorem pinCreateIso4 : Statement .pinCreateIso4 := fun _ => of_limits { arg := 5 } (by decide) rfl (by decide)
theorem pinExtractIso0 : Statement .pinExtractIso0 := fun _ => of_limits { arg := 5 } (by decide) rfl (by decide)
theorem pinExtractIso1 : Statement .pinExtractIso1 := fun _ => of_limits { arg := 5 } (by decide) rfl (by decide)
theorem pinExtractIso2 : Statement .pinExtractIso2 := fun _ => of_limits { arg := 5 } (by decide) rfl (by decide)
theorem pinExtractIso3 : Statement .pinExtractIso3 := fun _ => of_limits { arg := 5 } (by decide) rfl (by decide)
theorem pinExtractIso4 : Statement .pinExtractIso4 := fun _ => of_limits { arg := 5 } (by decide) rfl (by decide)
theorem pinDecryptIso0 : Statement .pinDecryptIso0 := fun _ => of_limits { arg := 5 } (by decide) rfl (by decide)
theorem pinDecryptIso1 : Statement .pinDecryptIso1 := fun _ => of_limits { arg := 5 } (by decide) rfl (by decide)
theorem pinDecryptIso2 : Statement .pinDecryptIso2 := fun _ => of_limits { arg := 5 } (by decide) rfl (by decide)
theorem pinDecryptIso3 : Statement .pinDecryptIso3 := fun _ => of_limits { arg := 5 } (by decide) rfl (by decide)
theorem pinDecryptIso4 : Statement .pinDecryptIso4 := fun _ => of_limits { arg := 5 } (by decide) rfl (by decide)
theorem pinTranslate : Statement .pinTranslate := fun _ => of_limits {} (by decide) rfl (by decide)
theorem keyGenDes (arg : Nat) : Statement (.keyGenDes arg) := by
  intro h
  have ha : arg < 16 := by simpa [Instr.wellFormed, argFits] using h
  interval_cases arg <;> exact of_limits { alg := 2, arg := 16 } (by decide) rfl (by decide)
theorem keyGenAes (arg : Nat) : Statement (.keyGenAes arg) := by
  intro h
  have ha : arg < 16 := by simpa [Instr.wellFormed, argFits] using h
  interval_cases arg <;> exact of_limits { alg := 2, arg := 16 } (by decide) rfl (by decide)
theorem keySplitDes (arg : Nat) : Statement (.keySplitDes arg) := by
  intro h
  have ha : arg < 16 := by simpa [Instr.wellFormed, argFits] using h
  interval_cases arg <;> exact of_limits { alg := 2, arg := 16 } (by decide) rfl (by decide)
theorem keySplitAes (arg : Nat) : Statement (.keySplitAes arg) := by
  intro h
  have ha : arg < 16 := by simpa [Instr.wellFormed, argFits] using h
  interval_cases arg <;> exact of_limits { alg := 2, arg := 16 } (by decide) rfl (by decide)
theorem keyCombineDes (arg : Nat) : Statement (.keyCombineDes arg) := by
  intro h
  have ha : arg < 16 := by simpa [Instr.wellFormed, argFits] using h
  interval_cases arg <;> exact of_limits { alg := 2, arg := 16 } (by decide) rfl (by decide)
theorem keyCombineAes (arg : Nat) : Statement (.keyCombineAes arg) := by
  intro h
  have ha : arg < 16 := by simpa [Instr.wellFormed, argFits] using h
  interval_cases arg <;> exact of_limits { alg := 2, arg := 16 } (by decide) rfl (by decide)
theorem keyKcvDes : Statement .keyKcvDes := fun _ => of_limits { alg := 2 } (by decide) rfl (by decide)
theorem keyKcvAes : Statement .keyKcvAes := fun _ => of_limits { alg := 2 } (by decide) rfl (by decide)
theorem parCheck : Statement .parCheck := fun _ => of_limits {} (by decide) rfl (by decide)
theorem parFix : Statement .parFix := fun _ => of_limits {} (by decide) rfl (by decide)

end Sys2Proof.Laws.EncodeLegal
end

