-- ==== Sys2Proof/Tests/Slice0.lean ====
section
/-! SUPPORT. Tests: the well-formedness smoke test, the decoding of every command from its written-out word, one or two
one-step tests per command with results from the spec's vectors (`95_test_vectors.md`, named in each theorem) or by
  hand
from a rule, the bus vectors, the text vectors, and the witnesses of the statements' hypotheses. -/

namespace Sys2Proof.Tests

set_option Elab.async false

open Sys2Proof.Machine

/-! ## Helpers -/

/-- A state with operand buffers loaded. -/
def loaded (ls : List (Buf × Bytes)) (s : State := State.reset) : State :=
  ls.foldl (fun s p => { s.setLen p.1 (BitVec.ofNat 32 p.2.length) with mem := s.mem.store p.1.base p.2 }) s

/-- STATE, ERR, output and flags after a command. -/
def run (i : Instr) (s : State) : Option (SeqState × BitVec 8 × Bytes × Bool × Bool) :=
  match exec i s with
  | .next t => some (t.st, t.err, t.output, t.vfail, t.parok)
  | _ => none

/-- A command that ends in DONE with this output and no flag. -/
def gives (i : Instr) (s : State) (v : Bytes) : Bool := run i s == some (.done, 0x00, v, false, false)

/-- A command that ends in ERROR with this code. -/
def fails (i : Instr) (s : State) (code : BitVec 8) : Bool := run i s == some (.error, code, [], false, false)

/-- A command ends in DONE, whatever its output. -/
def ends (i : Instr) (s : State) : Bool :=
  match exec i s with
  | .next t => t.st == .done
  | _ => false

/-! ## Well-formedness: an ill-formed term for the one check, in each place it stands (ARG is 4 bits, R91) -/

theorem test_keyGenDes_arg_16_is_ill_formed : (Instr.keyGenDes 16).wellFormed = false ∧ (Instr.keyGenDes
  15).wellFormed = true := by decide
theorem test_keyGenAes_arg_16_is_ill_formed : (Instr.keyGenAes 16).wellFormed = false ∧ (Instr.keyGenAes
  15).wellFormed = true := by decide
theorem test_keySplitDes_arg_16_is_ill_formed : (Instr.keySplitDes 16).wellFormed = false ∧ (Instr.keySplitDes
  15).wellFormed = true := by decide
theorem test_keySplitAes_arg_16_is_ill_formed : (Instr.keySplitAes 16).wellFormed = false ∧ (Instr.keySplitAes
  15).wellFormed = true := by decide
theorem test_keyCombineDes_arg_16_is_ill_formed : (Instr.keyCombineDes 16).wellFormed = false ∧ (Instr.keyCombineDes
  15).wellFormed = true := by decide
theorem test_keyCombineAes_arg_16_is_ill_formed : (Instr.keyCombineAes 16).wellFormed = false ∧ (Instr.keyCombineAes
  15).wellFormed = true := by decide

/-! ## Decoding: every word of R97 as the spec writes it -/

theorem test_decode_desEcbEnc : decode 0x00000001 = .ok .desEcbEnc := rfl
theorem test_decode_desEcbDec : decode 0x00000101 = .ok .desEcbDec := rfl
theorem test_decode_desCbcEnc : decode 0x00000201 = .ok .desCbcEnc := rfl
theorem test_decode_desCbcDec : decode 0x00000301 = .ok .desCbcDec := rfl
theorem test_decode_desCfbEnc : decode 0x00000401 = .ok .desCfbEnc := rfl
theorem test_decode_desCfbDec : decode 0x00000501 = .ok .desCfbDec := rfl
theorem test_decode_desOfbEnc : decode 0x00000601 = .ok .desOfbEnc := rfl
theorem test_decode_desOfbDec : decode 0x00000701 = .ok .desOfbDec := rfl
theorem test_decode_desCtrEnc : decode 0x00000801 = .ok .desCtrEnc := rfl
theorem test_decode_desCtrDec : decode 0x00000901 = .ok .desCtrDec := rfl
theorem test_decode_aesEcbEnc : decode 0x00001001 = .ok .aesEcbEnc := rfl
theorem test_decode_aesEcbDec : decode 0x00001101 = .ok .aesEcbDec := rfl
theorem test_decode_aesCbcEnc : decode 0x00001201 = .ok .aesCbcEnc := rfl
theorem test_decode_aesCbcDec : decode 0x00001301 = .ok .aesCbcDec := rfl
theorem test_decode_aesCfbEnc : decode 0x00001401 = .ok .aesCfbEnc := rfl
theorem test_decode_aesCfbDec : decode 0x00001501 = .ok .aesCfbDec := rfl
theorem test_decode_aesOfbEnc : decode 0x00001601 = .ok .aesOfbEnc := rfl
theorem test_decode_aesOfbDec : decode 0x00001701 = .ok .aesOfbDec := rfl
theorem test_decode_aesCtrEnc : decode 0x00001801 = .ok .aesCtrEnc := rfl
theorem test_decode_aesCtrDec : decode 0x00001901 = .ok .aesCtrDec := rfl
theorem test_decode_macCbcDes : decode 0x00000010 = .ok .macCbcDes := rfl
theorem test_decode_macCbcAes : decode 0x00001010 = .ok .macCbcAes := rfl
theorem test_decode_macRetail : decode 0x00000011 = .ok .macRetail := rfl
theorem test_decode_macCmac : decode 0x00000012 = .ok .macCmac := rfl
theorem test_decode_cmacSubkeys : decode 0x00000013 = .ok .cmacSubkeys := rfl
theorem test_decode_kdUdk : decode 0x00000020 = .ok .kdUdk := rfl
theorem test_decode_kdSkCommon : decode 0x00000021 = .ok .kdSkCommon := rfl
theorem test_decode_kdSkVisa : decode 0x00100021 = .ok .kdSkVisa := rfl
theorem test_decode_kdSkMc : decode 0x00200021 = .ok .kdSkMc := rfl
theorem test_decode_dukptIpek : decode 0x00000022 = .ok .dukptIpek := rfl
theorem test_decode_dukptKeyset : decode 0x00000023 = .ok .dukptKeyset := rfl
theorem test_decode_ksnInc : decode 0x00000024 = .ok .ksnInc := rfl
theorem test_decode_acGenArqcCommon : decode 0x00000030 = .ok .acGenArqcCommon := rfl
theorem test_decode_acGenArqcVisa : decode 0x00100030 = .ok .acGenArqcVisa := rfl
theorem test_decode_acGenArqcMc : decode 0x00200030 = .ok .acGenArqcMc := rfl
theorem test_decode_acGenTcCommon : decode 0x00400030 = .ok .acGenTcCommon := rfl
theorem test_decode_acGenTcVisa : decode 0x00500030 = .ok .acGenTcVisa := rfl
theorem test_decode_acGenTcMc : decode 0x00600030 = .ok .acGenTcMc := rfl
theorem test_decode_acGenAacCommon : decode 0x00800030 = .ok .acGenAacCommon := rfl
theorem test_decode_acGenAacVisa : decode 0x00900030 = .ok .acGenAacVisa := rfl
theorem test_decode_acGenAacMc : decode 0x00A00030 = .ok .acGenAacMc := rfl
theorem test_decode_acVerifyCommon : decode 0x00000031 = .ok .acVerifyCommon := rfl
theorem test_decode_acVerifyVisa : decode 0x00100031 = .ok .acVerifyVisa := rfl
theorem test_decode_acVerifyMc : decode 0x00200031 = .ok .acVerifyMc := rfl
theorem test_decode_arpcM1 : decode 0x00000032 = .ok .arpcM1 := rfl
theorem test_decode_arpcM2 : decode 0x00000033 = .ok .arpcM2 := rfl
theorem test_decode_pinCreateIso0 : decode 0x00000040 = .ok .pinCreateIso0 := rfl
theorem test_decode_pinCreateIso1 : decode 0x00010040 = .ok .pinCreateIso1 := rfl
theorem test_decode_pinCreateIso2 : decode 0x00020040 = .ok .pinCreateIso2 := rfl
theorem test_decode_pinCreateIso3 : decode 0x00030040 = .ok .pinCreateIso3 := rfl
theorem test_decode_pinCreateIso4 : decode 0x00040040 = .ok .pinCreateIso4 := rfl
theorem test_decode_pinExtractIso0 : decode 0x00000041 = .ok .pinExtractIso0 := rfl
theorem test_decode_pinExtractIso1 : decode 0x00010041 = .ok .pinExtractIso1 := rfl
theorem test_decode_pinExtractIso2 : decode 0x00020041 = .ok .pinExtractIso2 := rfl
theorem test_decode_pinExtractIso3 : decode 0x00030041 = .ok .pinExtractIso3 := rfl
theorem test_decode_pinExtractIso4 : decode 0x00040041 = .ok .pinExtractIso4 := rfl
theorem test_decode_pinDecryptIso0 : decode 0x00000042 = .ok .pinDecryptIso0 := rfl
theorem test_decode_pinDecryptIso1 : decode 0x00010042 = .ok .pinDecryptIso1 := rfl
theorem test_decode_pinDecryptIso2 : decode 0x00020042 = .ok .pinDecryptIso2 := rfl
theorem test_decode_pinDecryptIso3 : decode 0x00030042 = .ok .pinDecryptIso3 := rfl
theorem test_decode_pinDecryptIso4 : decode 0x00040042 = .ok .pinDecryptIso4 := rfl
theorem test_decode_pinTranslate : decode 0x00000043 = .ok .pinTranslate := rfl
theorem test_decode_keyGenDes : decode 0x00050050 = .ok (.keyGenDes 5) := rfl
theorem test_decode_keyGenAes : decode 0x00051050 = .ok (.keyGenAes 5) := rfl
theorem test_decode_keySplitDes : decode 0x00050051 = .ok (.keySplitDes 5) := rfl
theorem test_decode_keySplitAes : decode 0x00051051 = .ok (.keySplitAes 5) := rfl
theorem test_decode_keyCombineDes : decode 0x00050052 = .ok (.keyCombineDes 5) := rfl
theorem test_decode_keyCombineAes : decode 0x00051052 = .ok (.keyCombineAes 5) := rfl
theorem test_decode_keyKcvDes : decode 0x00000053 = .ok .keyKcvDes := rfl
theorem test_decode_keyKcvAes : decode 0x00001053 = .ok .keyKcvAes := rfl
theorem test_decode_parCheck : decode 0x00000054 = .ok .parCheck := rfl
theorem test_decode_parFix : decode 0x00000055 = .ok .parFix := rfl

/-! ## Illegal words (R96) -/

theorem test_illegal_opcode_zero : decode 0x00000000 = .error .illegalCommand := rfl
theorem test_illegal_opcode_unlisted : decode 0x00000002 = .error .illegalCommand := rfl
theorem test_illegal_mode_five : decode 0x00000A01 = .error .illegalCommand := rfl
theorem test_illegal_method_three : decode 0x00300021 = .error .illegalCommand := rfl
theorem test_illegal_ctype_three : decode 0x00C00030 = .error .illegalCommand := rfl
theorem test_illegal_ctype_with_verify : decode 0x00400031 = .error .illegalCommand := rfl
theorem test_illegal_pin_format_five : decode 0x00050040 = .error .illegalCommand := rfl
theorem test_illegal_must_be_zero_bit_13 : decode 0x00002001 = .error .illegalCommand := rfl
theorem test_illegal_must_be_zero_bit_24 : decode 0x01000001 = .error .illegalCommand := rfl
theorem test_illegal_direction_with_retail : decode 0x00000111 = .error .illegalCommand := rfl
theorem test_illegal_family_with_cmac : decode 0x00001012 = .error .illegalCommand := rfl

/-- The word is read from the table's numbering, and the step after `withFetchWord` runs it (R97, R285). -/
theorem test_fetch_word : decodeTableWord 32 0x00020050 = some (.keyGenDes 2) := by decide
theorem test_step_runs_fetch_word :
    step (State.reset.withFetchWord 32 0x00020050) = exec (.keyGenDes 2) (State.reset.withFetchWord 32 0x00020050)
      := by
  rfl

/-! ## One step of each command -/

theorem test_desEcbEnc_VCIPH15 :
    gives .desEcbEnc (loaded [(.key0, be 8 0x0123456789ABCDEF), (.din, be 16 0x4E6F77206973207468652074696D6520)])
      (be 16 0x3FA40E8A984D48156A271787AB8883F9) = true := by decide +kernel
theorem test_desEcbEnc_VCIPH36 : fails .desEcbEnc (loaded [(.key0,
  be 32 0x603DEB1015CA71BE2B73AEF0857D77811F352C073B6108D72D9810A30914DFF4), (.din,
  be 16 0x4E6F77206973207468652074696D6520)]) 0x02 = true := by
  decide +kernel
theorem test_desEcbDec_VCIPH16 :
    gives .desEcbDec (loaded [(.key0, be 8 0x0123456789ABCDEF), (.din, be 16 0x3FA40E8A984D48156A271787AB8883F9)])
      (be 16 0x4E6F77206973207468652074696D6520) = true := by decide +kernel
theorem test_desCbcEnc_VCIPH17 :
    gives .desCbcEnc (loaded [(.key0, be 8 0x0123456789ABCDEF), (.din, be 16 0x4E6F77206973207468652074696D6520),
      (.iv, be 8 0x1234567890ABCDEF)])
      (be 16 0xE5C7CDDE872BF27C43E934008C389C0F) = true := by decide +kernel
theorem test_desCbcEnc_VCIPH38 : fails .desCbcEnc ((loaded [(.key0, be 8 0x0123456789ABCDEF), (.din,
  be 5 0x4E6F772069)] { State.reset with ivLen := 3 }).setLen .din 5) 0x09 = true := by
  decide +kernel
theorem test_desCbcDec_VCIPH18 :
    gives .desCbcDec (loaded [(.key0, be 8 0x0123456789ABCDEF), (.din, be 16 0xE5C7CDDE872BF27C43E934008C389C0F),
      (.iv, be 8 0x1234567890ABCDEF)])
      (be 16 0x4E6F77206973207468652074696D6520) = true := by decide +kernel
theorem test_desCfbEnc_VCIPH19 :
    gives .desCfbEnc (loaded [(.key0, be 8 0x0123456789ABCDEF), (.din, be 16 0x4E6F77206973207468652074696D6520),
      (.iv, be 8 0x1234567890ABCDEF)])
      (be 16 0xF3096249C7F46E51A69E839B1A92F784) = true := by decide +kernel
theorem test_desCfbDec_VCIPH20 :
    gives .desCfbDec (loaded [(.key0, be 8 0x0123456789ABCDEF), (.din, be 16 0xF3096249C7F46E51A69E839B1A92F784),
      (.iv, be 8 0x1234567890ABCDEF)])
      (be 16 0x4E6F77206973207468652074696D6520) = true := by decide +kernel
theorem test_desOfbEnc_VCIPH21 :
    gives .desOfbEnc (loaded [(.key0, be 8 0x0123456789ABCDEF), (.din, be 16 0x4E6F77206973207468652074696D6520),
      (.iv, be 8 0x1234567890ABCDEF)])
      (be 16 0xF3096249C7F46E5135F24A242EEB3D3F) = true := by decide +kernel
theorem test_desOfbDec_VCIPH22 :
    gives .desOfbDec (loaded [(.key0, be 8 0x0123456789ABCDEF), (.din, be 16 0xF3096249C7F46E5135F24A242EEB3D3F),
      (.iv, be 8 0x1234567890ABCDEF)])
      (be 16 0x4E6F77206973207468652074696D6520) = true := by decide +kernel
theorem test_desCtrEnc_VCIPH32 :
    gives .desCtrEnc (loaded [(.key0, be 8 0x0123456789ABCDEF), (.iv, be 8 0xFFFFFFFFFFFFFFFF), (.din,
      be 16 0x4E6F77206973207468652074696D6520)])
      (be 16 0x171C54769A1CFE72BDB16F834905582D) = true := by decide +kernel
theorem test_desCtrDec_VCIPH24 :
    gives .desCtrDec (loaded [(.key0, be 8 0x0123456789ABCDEF), (.din, be 16 0xF3096249C7F46E51163A8CA0FFC94C27),
      (.iv, be 8 0x1234567890ABCDEF)])
      (be 16 0x4E6F77206973207468652074696D6520) = true := by decide +kernel
theorem test_aesEcbEnc_VCIPH12 :
    gives .aesEcbEnc (loaded [(.key0, be 24 0x8E73B0F7DA0E6452C810F32B809079E562F8EAD2522C6B7B), (.din,
      be 16 0x6BC1BEE22E409F96E93D7E117393172A)])
      (be 16 0xBD334F1D6E45F25FF712A214571FA5CC) = true := by decide +kernel
theorem test_aesEcbEnc_VCIPH42 : fails .aesEcbEnc (loaded [(.key0, be 16 0x2B7E151628AED2A6ABF7158809CF4F3C)]
  { State.reset with dinLen := 1040 }) 0x03 = true := by
  decide +kernel
theorem test_aesEcbDec_VCIPH2 :
    gives .aesEcbDec (loaded [(.key0, be 16 0x2B7E151628AED2A6ABF7158809CF4F3C), (.din,
      be 32 0x3AD77BB40D7A3660A89ECAF32466EF97F5D3D58503B9699DE785895A96FDBAAF)])
      (be 32 0x6BC1BEE22E409F96E93D7E117393172AAE2D8A571E03AC9C9EB76FAC45AF8E51) = true := by decide +kernel
theorem test_aesCbcEnc_VCIPH33 :
    gives .aesCbcEnc (loaded [(.key0, be 16 0x2B7E151628AED2A6ABF7158809CF4F3C), (.iv,
      be 16 0x000102030405060708090A0B0C0D0E0F)] { State.reset with dinLen := 0 })
      ([]) = true := by decide +kernel
theorem test_aesCbcEnc_VCIPH41 : fails .aesCbcEnc (loaded [(.key0, be 16 0x2B7E151628AED2A6ABF7158809CF4F3C), (.iv,
  be 8 0x1234567890ABCDEF), (.din, be 32 0x6BC1BEE22E409F96E93D7E117393172AAE2D8A571E03AC9C9EB76FAC45AF8E51)]) 0x09
  = true := by
  decide +kernel
theorem test_aesCbcDec_VCIPH4 :
    gives .aesCbcDec (loaded [(.key0, be 16 0x2B7E151628AED2A6ABF7158809CF4F3C), (.din,
      be 32 0x7649ABAC8119B246CEE98E9B12E9197D5086CB9B507219EE95DB113A917678B2), (.iv,
      be 16 0x000102030405060708090A0B0C0D0E0F)])
      (be 32 0x6BC1BEE22E409F96E93D7E117393172AAE2D8A571E03AC9C9EB76FAC45AF8E51) = true := by decide +kernel
theorem test_aesCfbEnc_VCIPH5 :
    gives .aesCfbEnc (loaded [(.key0, be 16 0x2B7E151628AED2A6ABF7158809CF4F3C), (.din,
      be 32 0x6BC1BEE22E409F96E93D7E117393172AAE2D8A571E03AC9C9EB76FAC45AF8E51), (.iv,
      be 16 0x000102030405060708090A0B0C0D0E0F)])
      (be 32 0x3B3FD92EB72DAD20333449F8E83CFB4AC8A64537A0B3A93FCDE3CDAD9F1CE58B) = true := by decide +kernel
theorem test_aesCfbDec_VCIPH6 :
    gives .aesCfbDec (loaded [(.key0, be 16 0x2B7E151628AED2A6ABF7158809CF4F3C), (.din,
      be 32 0x3B3FD92EB72DAD20333449F8E83CFB4AC8A64537A0B3A93FCDE3CDAD9F1CE58B), (.iv,
      be 16 0x000102030405060708090A0B0C0D0E0F)])
      (be 32 0x6BC1BEE22E409F96E93D7E117393172AAE2D8A571E03AC9C9EB76FAC45AF8E51) = true := by decide +kernel
theorem test_aesOfbEnc_VCIPH7 :
    gives .aesOfbEnc (loaded [(.key0, be 16 0x2B7E151628AED2A6ABF7158809CF4F3C), (.din,
      be 32 0x6BC1BEE22E409F96E93D7E117393172AAE2D8A571E03AC9C9EB76FAC45AF8E51), (.iv,
      be 16 0x000102030405060708090A0B0C0D0E0F)])
      (be 32 0x3B3FD92EB72DAD20333449F8E83CFB4A7789508D16918F03F53C52DAC54ED825) = true := by decide +kernel
theorem test_aesOfbDec_VCIPH8 :
    gives .aesOfbDec (loaded [(.key0, be 16 0x2B7E151628AED2A6ABF7158809CF4F3C), (.din,
      be 32 0x3B3FD92EB72DAD20333449F8E83CFB4A7789508D16918F03F53C52DAC54ED825), (.iv,
      be 16 0x000102030405060708090A0B0C0D0E0F)])
      (be 32 0x6BC1BEE22E409F96E93D7E117393172AAE2D8A571E03AC9C9EB76FAC45AF8E51) = true := by decide +kernel
theorem test_aesCtrEnc_VCIPH9 :
    gives .aesCtrEnc (loaded [(.key0, be 16 0x2B7E151628AED2A6ABF7158809CF4F3C), (.iv,
      be 16 0xF0F1F2F3F4F5F6F7F8F9FAFBFCFDFEFF), (.din,
      be 32 0x6BC1BEE22E409F96E93D7E117393172AAE2D8A571E03AC9C9EB76FAC45AF8E51)])
      (be 32 0x874D6191B620E3261BEF6864990DB6CE9806F66B7970FDFF8617187BB9FFFDFF) = true := by decide +kernel
theorem test_aesCtrEnc_VCIPH40 : fails .aesCtrEnc (loaded [(.key0, be 16 0x2B7E151628AED2A6ABF7158809CF4F3C), (.iv,
  be 16 0xF0F1F2F3F4F5F6F7F8F9FAFBFCFDFEFF), (.din, be 24 0x6BC1BEE22E409F96E93D7E117393172AAE2D8A571E03AC9C)]) 0x03
  = true := by
  decide +kernel
theorem test_aesCtrDec_VCIPH10 :
    gives .aesCtrDec (loaded [(.key0, be 16 0x2B7E151628AED2A6ABF7158809CF4F3C), (.iv,
      be 16 0xF0F1F2F3F4F5F6F7F8F9FAFBFCFDFEFF), (.din,
      be 32 0x874D6191B620E3261BEF6864990DB6CE9806F66B7970FDFF8617187BB9FFFDFF)])
      (be 32 0x6BC1BEE22E409F96E93D7E117393172AAE2D8A571E03AC9C9EB76FAC45AF8E51) = true := by decide +kernel
theorem test_macCbcDes_VMAC1 :
    gives .macCbcDes (loaded [(.key0, be 8 0x0123456789ABCDEF), (.iv, be 8 0x0000000000000000), (.din,
      be 16 0x4E6F77206973207468652074696D6520)])
      (be 8 0x0B2E73F88DC5856A) = true := by decide +kernel
theorem test_macCbcDes_VMAC26 : fails .macCbcDes (loaded [(.key0, be 8 0x0123456789ABCDEF), (.iv,
  be 8 0x0000000000000000)]) 0x03 = true := by
  decide +kernel
theorem test_macCbcAes_VMAC5 :
    gives .macCbcAes (loaded [(.key0, be 16 0x2B7E151628AED2A6ABF7158809CF4F3C), (.iv,
      be 16 0x00000000000000000000000000000000), (.din,
      be 32 0x6BC1BEE22E409F96E93D7E117393172AAE2D8A571E03AC9C9EB76FAC45AF8E51)])
      (be 16 0xB148C17F309EE692287AE57CF12ADD49) = true := by decide +kernel
theorem test_macCbcAes_VMAC28 : fails .macCbcAes (loaded [(.key0, be 16 0x2B7E151628AED2A6ABF7158809CF4F3C), (.iv,
  be 16 0x00000000000000000000000000000000), (.din, be 24 0x6BC1BEE22E409F96E93D7E117393172AAE2D8A571E03AC9C)]) 0x03
  = true := by
  decide +kernel
theorem test_macRetail_VMAC3 :
    gives .macRetail (loaded [(.key0, be 16 0x00000000000000000000000000000000)])
      (be 8 0x8CA64DE9C1B123A7) = true := by decide +kernel
theorem test_macRetail_VMAC7 :
    gives .macRetail (loaded [(.key0, be 16 0x0123456789ABCDEFFEDCBA9876543210), (.din,
      be 16 0x4E6F77206973207468652074696D6520)])
      (be 8 0xE80726A9C2D8FD25) = true := by decide +kernel
theorem test_macCmac_VMAC17 :
    gives .macCmac (loaded [(.key0, be 16 0x2B7E151628AED2A6ABF7158809CF4F3C), (.din,
      be 16 0x6BC1BEE22E409F96E93D7E117393172A)])
      (be 16 0x070A16B46B4D4144F79BDD9DD04A287C) = true := by decide +kernel
theorem test_macCmac_VMAC18 :
    gives .macCmac (loaded [(.key0, be 16 0x2B7E151628AED2A6ABF7158809CF4F3C), (.din,
      be 20 0x6BC1BEE22E409F96E93D7E117393172AAE2D8A57)])
      (be 16 0x7D85449EA6EA19C823A7BF78837DFADE) = true := by decide +kernel
theorem test_cmacSubkeys_VMAC13 :
    gives .cmacSubkeys (loaded [(.key0, be 16 0x2B7E151628AED2A6ABF7158809CF4F3C)])
      (be 32 0xFBEED618357133667C85E08F7236A8DEF7DDAC306AE266CCF90BC11EE46D513B) = true := by decide +kernel
theorem test_kdUdk_VKD1 :
    gives .kdUdk (loaded [(.key0, be 16 0x0123456789ABCDEFFEDCBA9876543210), (.pan,
      be 16 0x05040103030300000809000200000101), (.psn, be 2 0x0001)])
      (be 16 0x73C4667545D891E887074A16BFBBCD75) = true := by decide +kernel
theorem test_kdUdk_VKD29 : fails .kdUdk ((loaded [(.key0, be 16 0x0123456789ABCDEFFEDCBA9876543210), (.pan,
  be 16 0x05040103030300000809000200000101), (.psn, be 4 0x00000001)]).setLen .psn 5) 0x09 = true := by
  decide +kernel
theorem test_kdSkCommon_VKD5 :
    gives .kdSkCommon (loaded [(.key0, be 16 0x73C4667545D891E887074A16BFBBCD75)] { State.reset with atc := 0x0001 })
      (be 16 0x722C6D5A00911025AFAB1C017D1CC72D) = true := by decide +kernel
theorem test_kdSkVisa_VKD6 :
    gives .kdSkVisa (loaded [(.key0, be 16 0x73C4667545D891E887074A16BFBBCD75)] { State.reset with atc := 0x0001 })
      (be 16 0x722C6D5A00911025AFAB1C017D1CC72D) = true := by decide +kernel
/-- The suffix pair is open: only the completion is tested (R205). -/
theorem test_kdSkMc_completes : ends .kdSkMc (loaded [(.key0, be 16 0x73C4667545D891E887074A16BFBBCD75)]
  { State.reset with atc := 0x0001 }) = true := by decide +kernel
theorem test_dukptIpek_VKD8 :
    gives .dukptIpek (loaded [(.key0, be 16 0x0123456789ABCDEFFEDCBA9876543210), (.ksn,
      be 10 0xFFFF9876543210E00001)])
      (be 16 0x6AC292FAA1315B4D858AB3A3D7D5933A) = true := by decide +kernel
theorem test_dukptIpek_VKD25 : fails .dukptIpek (loaded [(.key0, be 8 0x0123456789ABCDEF), (.ksn,
  be 10 0xFFFF9876543210E00001)]) 0x02 = true := by
  decide +kernel
theorem test_dukptKeyset_VKD10 :
    gives .dukptKeyset (loaded [(.key0, be 16 0x0123456789ABCDEFFEDCBA9876543210), (.ksn,
      be 10 0xFFFF9876543210E00000)])
      (be 90 0x6AC292FAA1315B4D858AB3A3D7D5933AFFFF9876543210E000006AC292FAA1315B4D858AB3A3D7D5933A6AC292FAA1315BB2858AB3A3D7D593C56AC292FAA131A44D858AB3A3D7D56C3AEA2B1195B02D1E77A14CED05952DF86B)
        = true := by decide +kernel
theorem test_dukptKeyset_VKD26 : fails .dukptKeyset (loaded [(.key0, be 16 0x0123456789ABCDEFFEDCBA9876543210)])
  0x09 = true := by
  decide +kernel
theorem test_ksnInc_VKD18 :
    gives .ksnInc (loaded [(.ksn, be 10 0xFFFF9876543210E0FFFF)])
      (be 10 0xFFFF9876543210E10000) = true := by decide +kernel
theorem test_ksnInc_VKD22 : fails .ksnInc (loaded [(.ksn, be 10 0x0123456789ABCD3FFFFF)]) 0x08 = true := by
  decide +kernel
theorem test_acGenArqcCommon_VAC13 : fails .acGenArqcCommon ((loaded [(.key0,
  be 16 0x0123456789ABCDEFFEDCBA9876543210), (.pan, be 16 0x05040103030300000809000200000101), (.psn, be 2 0x0001),
  (.un, be 4 0x30901B6A), (.din,
  be 42 0x0000000010000000000000000710000000000007101302050030901B6A2300001EABC126F85499760000)]
  { State.reset with atc := 0x0001 }).setLen .un 9) 0x09 = true := by
  decide +kernel
/-- UN longer than 8 bytes (R202, as in V-AC-13). -/
theorem test_acGenArqcVisa_by_hand :
    fails .acGenArqcVisa ((loaded [(.key0, be 16 0x0123456789ABCDEFFEDCBA9876543210), (.pan,
      be 16 0x05040103030300000809000200000101), (.psn, be 2 0x0001), (.aux0, zeros 8), (.un, be 4 0x30901B6A),
      (.din, be 42 0x0000000010000000000000000710000000000007101302050030901B6A2300001EABC126F85499760000)]
      { State.reset with atc := 0x0001 }).setLen .un 9) 0x09 = true := by decide +kernel
/-- The suffix pair is open: only the completion is tested (R232). -/
theorem test_acGenArqcMc_completes : ends .acGenArqcMc (loaded [(.key0, be 16 0x0123456789ABCDEFFEDCBA9876543210),
  (.pan, be 16 0x05040103030300000809000200000101), (.psn, be 2 0x0001), (.un, be 4 0x30901B6A)]
  { State.reset with atc := 0x0001 }) = true := by decide +kernel
/-- UN longer than 8 bytes (R202, as in V-AC-13). -/
theorem test_acGenTcCommon_by_hand :
    fails .acGenTcCommon ((loaded [(.key0, be 16 0x0123456789ABCDEFFEDCBA9876543210), (.pan,
      be 16 0x05040103030300000809000200000101), (.psn, be 2 0x0001), (.aux0, zeros 8), (.un, be 4 0x30901B6A),
      (.din, be 42 0x0000000010000000000000000710000000000007101302050030901B6A2300001EABC126F85499760000)]
      { State.reset with atc := 0x0001 }).setLen .un 9) 0x09 = true := by decide +kernel
theorem test_acGenTcVisa_VAC2 :
    gives .acGenTcVisa (loaded [(.key0, be 16 0x0123456789ABCDEFFEDCBA9876543210), (.pan,
      be 16 0x05040103030300000809000200000101), (.psn, be 2 0x0001), (.un, be 4 0x30901B6A), (.din,
      be 42 0x0000000010000000000000000710000000000007101302050030901B6A2300001EABC126F85499760000)]
      { State.reset with atc := 0x0001 })
      (be 75 0x015DC15350D9F5AD52722C6D5A00911025AFAB1C017D1CC72D00300000000010000000000000000710000000000007101302050030901B6A2300001EABC126F85499760000000130901B6A)
        = true := by decide +kernel
/-- The suffix pair is open: only the completion is tested (R232). -/
theorem test_acGenTcMc_completes : ends .acGenTcMc (loaded [(.key0, be 16 0x0123456789ABCDEFFEDCBA9876543210),
  (.pan, be 16 0x05040103030300000809000200000101), (.psn, be 2 0x0001), (.un, be 4 0x30901B6A)]
  { State.reset with atc := 0x0001 }) = true := by decide +kernel
/-- UN longer than 8 bytes (R202, as in V-AC-13). -/
theorem test_acGenAacCommon_by_hand :
    fails .acGenAacCommon ((loaded [(.key0, be 16 0x0123456789ABCDEFFEDCBA9876543210), (.pan,
      be 16 0x05040103030300000809000200000101), (.psn, be 2 0x0001), (.aux0, zeros 8), (.un, be 4 0x30901B6A),
      (.din, be 42 0x0000000010000000000000000710000000000007101302050030901B6A2300001EABC126F85499760000)]
      { State.reset with atc := 0x0001 }).setLen .un 9) 0x09 = true := by decide +kernel
/-- UN longer than 8 bytes (R202, as in V-AC-13). -/
theorem test_acGenAacVisa_by_hand :
    fails .acGenAacVisa ((loaded [(.key0, be 16 0x0123456789ABCDEFFEDCBA9876543210), (.pan,
      be 16 0x05040103030300000809000200000101), (.psn, be 2 0x0001), (.aux0, zeros 8), (.un, be 4 0x30901B6A),
      (.din, be 42 0x0000000010000000000000000710000000000007101302050030901B6A2300001EABC126F85499760000)]
      { State.reset with atc := 0x0001 }).setLen .un 9) 0x09 = true := by decide +kernel
/-- The suffix pair is open: only the completion is tested (R232). -/
theorem test_acGenAacMc_completes : ends .acGenAacMc (loaded [(.key0, be 16 0x0123456789ABCDEFFEDCBA9876543210),
  (.pan, be 16 0x05040103030300000809000200000101), (.psn, be 2 0x0001), (.un, be 4 0x30901B6A)]
  { State.reset with atc := 0x0001 }) = true := by decide +kernel
theorem test_acVerifyCommon_VAC7 :
    run .acVerifyCommon (loaded [(.key0, be 16 0x0123456789ABCDEFFEDCBA9876543210), (.pan,
      be 16 0x05040103030300000809000200000101), (.psn, be 2 0x0001), (.un, be 4 0x30901B6A), (.din,
      be 42 0x0000000010000000000000000710000000000007101302050030901B6A2300001EABC126F85499760000), (.aux0,
      be 8 0x5DC15350D9F5AD53)] { State.reset with atc := 0x0001 }) = some (.done, 0x00, be 1 0x00, true, false) :=
      by
  decide +kernel
/-- UN longer than 8 bytes (R202, as in V-AC-13). -/
theorem test_acVerifyVisa_by_hand :
    fails .acVerifyVisa ((loaded [(.key0, be 16 0x0123456789ABCDEFFEDCBA9876543210), (.pan,
      be 16 0x05040103030300000809000200000101), (.psn, be 2 0x0001), (.aux0, zeros 8), (.un, be 4 0x30901B6A),
      (.din, be 42 0x0000000010000000000000000710000000000007101302050030901B6A2300001EABC126F85499760000)]
      { State.reset with atc := 0x0001 }).setLen .un 9) 0x09 = true := by decide +kernel
/-- The suffix pair is open: only the completion is tested (R232). -/
theorem test_acVerifyMc_completes : ends .acVerifyMc (loaded [(.key0, be 16 0x0123456789ABCDEFFEDCBA9876543210),
  (.pan, be 16 0x05040103030300000809000200000101), (.psn, be 2 0x0001), (.un, be 4 0x30901B6A), (.din,
  be 42 0x0000000010000000000000000710000000000007101302050030901B6A2300001EABC126F85499760000), (.aux0,
  be 8 0x5DC15350D9F5AD52)] { State.reset with atc := 0x0002 }) = true := by decide +kernel
theorem test_arpcM1_VAC17 :
    gives .arpcM1 (loaded [(.key0, be 16 0x722C6D5A00911025AFAB1C017D1CC72D), (.aux0, be 8 0x5DC15350D9F5AD52)])
      (be 8 0x5D0A5FD7AAE59E1C) = true := by decide +kernel
theorem test_arpcM1_VAC21 : fails .arpcM1 (loaded [(.key0, be 16 0x722C6D5A00911025AFAB1C017D1CC72D), (.aux0,
  be 7 0x5DC15350D9F5AD), (.aux1, be 2 0x3030)]) 0x09 = true := by
  decide +kernel
theorem test_arpcM2_VAC19 :
    gives .arpcM2 (loaded [(.key0, be 16 0x722C6D5A00911025AFAB1C017D1CC72D), (.aux0, be 8 0x5DC15350D9F5AD52),
      (.aux1, be 4 0x00120000), (.aux2, be 3 0xA1B2C3)])
      (be 4 0x77791299) = true := by decide +kernel
theorem test_arpcM2_VAC22 : fails .arpcM2 (loaded [(.key0, be 16 0x722C6D5A00911025AFAB1C017D1CC72D), (.aux0,
  be 8 0x5DC15350D9F5AD52), (.aux1, be 4 0x00120000)] { State.reset with aux2Len := 9 }) 0x09 = true := by
  decide +kernel
theorem test_pinCreateIso0_VPIN10 :
    gives .pinCreateIso0 (loaded [(.pin, be 4 0x01020304)])
      (be 8 0x041234FFFFFFFFFF) = true := by decide +kernel
theorem test_pinCreateIso0_VPIN23 : fails .pinCreateIso0 (loaded [(.pin, be 3 0x010203), (.pan,
  be 17 0x0403020109080706050403020100090807)]) 0x04 = true := by
  decide +kernel
theorem test_pinCreateIso1_VPIN2 :
    gives .pinCreateIso1 (loaded [(.pin, be 4 0x01020304)]
      { State.reset with rngQueue := be 10 0x3A17F0059C42BE6108D3 })
      (be 8 0x141234A705C2E183) = true := by decide +kernel
theorem test_pinCreateIso1_VPIN24 : fails .pinCreateIso1 (loaded [(.pin, be 13 0x01020304050607080900010203)]
  { State.reset with rngQueue := be 10 0x3A17F0059C42BE6108D3 }) 0x04 = true := by
  decide +kernel
theorem test_pinCreateIso2_VPIN7 :
    gives .pinCreateIso2 (loaded [(.pin, be 12 0x010203040506070809000102)])
      (be 8 0x2C123456789012FF) = true := by decide +kernel
theorem test_pinCreateIso2_VPIN25 : fails .pinCreateIso2 (loaded [(.pin, be 4 0x01020A04)]) 0x09 = true := by
  decide +kernel
theorem test_pinCreateIso3_VPIN4 :
    gives .pinCreateIso3 (loaded [(.pin, be 4 0x01020304), (.pan, be 17 0x0403020109080706050403020100090807)]
      { State.reset with rngQueue := be 10 0x3A17F0059C42BE6108D3 })
      (be 8 0x3412AC99FB98FB53) = true := by decide +kernel
theorem test_pinCreateIso3_VPIN26 : fails .pinCreateIso3 (loaded [(.pin, be 4 0x01020304), (.pan, be 3 0x04033F)]
  { State.reset with rngQueue := be 10 0x3A17F0059C42BE6108D3 }) 0x09 = true := by
  decide +kernel
theorem test_pinCreateIso4_VPIN5 :
    gives .pinCreateIso4 (loaded [(.pin, be 4 0x01020304), (.pan, be 17 0x0403020109080706050403020100090807)])
      (be 8 0x4412ACDCFE98BA32) = true := by decide +kernel
theorem test_pinExtractIso0_VPIN17 :
    gives .pinExtractIso0 (loaded [(.aux0, be 8 0x0412AC89ABCDEF67), (.pan,
      be 16 0x05040103030300000809000200000101)])
      (be 4 0x0102090F) = true := by decide +kernel
theorem test_pinExtractIso0_VPIN30 : fails .pinExtractIso0 (loaded [(.aux0, be 7 0x0412AC89ABCDEF), (.pan,
  be 17 0x0403020109080706050403020100090807)]) 0x09 = true := by
  decide +kernel
theorem test_pinExtractIso1_VPIN12 :
    gives .pinExtractIso1 (loaded [(.aux0, be 8 0x141234A705C2E183)])
      (be 4 0x01020304) = true := by decide +kernel
theorem test_pinExtractIso2_VPIN16 :
    gives .pinExtractIso2 (loaded [(.aux0, be 8 0x2C123456789012FF)])
      (be 12 0x010203040506070809000102) = true := by decide +kernel
theorem test_pinExtractIso2_VPIN28 : fails .pinExtractIso2 (loaded [(.aux0, be 8 0x231234FFFFFFFFFF)]) 0x04 = true
  := by
  decide +kernel
theorem test_pinExtractIso3_VPIN14 :
    gives .pinExtractIso3 (loaded [(.aux0, be 8 0x3412AC99FB98FB53), (.pan,
      be 17 0x0403020109080706050403020100090807)])
      (be 4 0x01020304) = true := by decide +kernel
theorem test_pinExtractIso4_VPIN15 :
    gives .pinExtractIso4 (loaded [(.aux0, be 8 0x4412ACDCFE98BA32), (.pan,
      be 17 0x0403020109080706050403020100090807)])
      (be 4 0x01020304) = true := by decide +kernel
theorem test_pinDecryptIso0_VPIN22 :
    gives .pinDecryptIso0 (loaded [(.key0, be 8 0x1111111111111111), (.aux0, be 8 0xA8DA9831DB136FF0), (.pan,
      be 17 0x0403020109080706050403020100090807)])
      (be 4 0x01020304) = true := by decide +kernel
theorem test_pinDecryptIso0_VPIN31 : fails .pinDecryptIso0 (loaded [(.key0,
  be 32 0x603DEB1015CA71BE2B73AEF0857D77811F352C073B6108D72D9810A30914DFF4), (.aux0, be 8 0xC967C8198151A458),
  (.pan, be 17 0x0403020109080706050403020100090807)]) 0x02 = true := by
  decide +kernel
/-- The block of V-PIN-20, read by hand as R262 says for this format. -/
theorem test_pinDecryptIso1_by_hand :
    gives .pinDecryptIso1 (loaded [(.key0, be 16 0x0123456789ABCDEFFEDCBA9876543210), (.aux0,
      be 8 0xC967C8198151A458), (.pan, be 17 0x0403020109080706050403020100090807)])
      (be 4 0x01020A0C) = true := by decide +kernel
/-- The block of V-PIN-20, read by hand as R262 says for this format. -/
theorem test_pinDecryptIso2_by_hand :
    gives .pinDecryptIso2 (loaded [(.key0, be 16 0x0123456789ABCDEFFEDCBA9876543210), (.aux0,
      be 8 0xC967C8198151A458), (.pan, be 17 0x0403020109080706050403020100090807)])
      (be 4 0x01020A0C) = true := by decide +kernel
/-- The last command of program P5. -/
theorem test_pinDecryptIso3_P5 :
    gives .pinDecryptIso3 (loaded [(.key0, be 8 0x1111111111111111), (.aux0, be 8 0x9C1C7F1EE70221A9), (.pan,
      be 17 0x0403020109080706050403020100090807)])
      (be 4 0x01020304) = true := by decide +kernel
/-- The block of V-PIN-20, read by hand as R262 says for this format. -/
theorem test_pinDecryptIso4_by_hand :
    gives .pinDecryptIso4 (loaded [(.key0, be 16 0x0123456789ABCDEFFEDCBA9876543210), (.aux0,
      be 8 0xC967C8198151A458), (.pan, be 17 0x0403020109080706050403020100090807)])
      (be 4 0x01020304) = true := by decide +kernel
theorem test_pinTranslate_VPIN21 :
    gives .pinTranslate (loaded [(.key0, be 16 0x0123456789ABCDEFFEDCBA9876543210), (.key1,
      be 8 0x1111111111111111), (.aux0, be 8 0xC967C8198151A458)])
      (be 8 0xA8DA9831DB136FF0) = true := by decide +kernel
theorem test_pinTranslate_VPIN32 : fails .pinTranslate (loaded [(.key0, be 16 0x0123456789ABCDEFFEDCBA9876543210),
  (.key1, be 4 0x11111111), (.aux0, be 8 0xC967C8198151A458)]) 0x02 = true := by
  decide +kernel
theorem test_keyGenDes_VKEY11 :
    gives (.keyGenDes 2) (loaded [] { State.reset with rngQueue := be 16 0x101112131415161718191A1B1C1D1E1F })
      (be 16 0x101013131515161619191A1A1C1C1F1F) = true := by decide +kernel
theorem test_keyGenDes_VKEY14 : fails (.keyGenDes 4) (loaded []
  { State.reset with rngQueue := be 32 0x101112131415161718191A1B1C1D1E1F202122232425262728292A2B2C2D2E2F }) 0x02 =
  true := by
  decide +kernel
theorem test_keyGenAes_VKEY12 :
    gives (.keyGenAes 4) (loaded []
      { State.reset with rngQueue := be 32 0xE0E1E2E3E4E5E6E7E8E9EAEBECEDEEEFF0F1F2F3F4F5F6F7F8F9FAFBFCFDFEFF })
      (be 32 0xE0E0E3E3E5E5E6E6E9E9EAEAECECEFEFF1F1F2F2F4F4F7F7F8F8FBFBFDFDFEFE) = true := by decide +kernel
theorem test_keyGenAes_VKEY15 : fails (.keyGenAes 1) (loaded []
  { State.reset with rngQueue := be 32 0x101112131415161718191A1B1C1D1E1F202122232425262728292A2B2C2D2E2F }) 0x02 =
  true := by
  decide +kernel
theorem test_keySplitDes_VKEY18 :
    gives (.keySplitDes 2) (loaded [(.key0, be 16 0x0123456789ABCDEFFEDCBA9876543210)]
      { State.reset with rngQueue := be 16 0x101112131415161718191A1B1C1D1E1F })
      (be 61 0x02100123456789ABCDEFFEDCBA987654321008D7B401101013131515161619191A1A1C1C1F1FFE8A0902113356749CBEDBF9E7C5A0826A482D0F38866C)
        = true := by decide +kernel
theorem test_keySplitDes_VKEY21 : fails (.keySplitDes 1) (loaded [(.key0, be 16 0x0123456789ABCDEFFEDCBA9876543210)]
  { State.reset with rngQueue := be 32 0x101112131415161718191A1B1C1D1E1F202122232425262728292A2B2C2D2E2F }) 0x06 =
  true := by
  decide +kernel
theorem test_keySplitAes_VKEY19 :
    gives (.keySplitAes 2) (loaded [(.key0, be 16 0x2B7E151628AED2A6ABF7158809CF4F3C)]
      { State.reset with rngQueue := be 16 0x101112131415161718191A1B1C1D1E1F })
      (be 61 0x02102B7E151628AED2A6ABF7158809CF4F3C7DF76B01101013131515161619191A1A1C1C1F1FF85D47023B6E06053DBBC4B0B2EE0F9215D35023C8F72B)
        = true := by decide +kernel
theorem test_keyCombineDes_VKEY26 :
    gives (.keyCombineDes 2) (loaded [(.din,
      be 34 0x10101013131515161619191A1A1C1C1F1F10113356749CBEDBF9E7C5A0826A482D0F)])
      (be 19 0x0123456789ABCDEFFEDCBA987654321008D7B4) = true := by decide +kernel
theorem test_keyCombineDes_VKEY28 : fails (.keyCombineDes 2) (loaded [(.din,
  be 26 0x10101013131515161619191A1A1C1C1F1F080123456789ABCDEF)]) 0x05 = true := by
  decide +kernel
theorem test_keyCombineAes_VKEY27 :
    gives (.keyCombineAes 1) (loaded [(.din, be 17 0x10101013131515161619191A1A1C1C1F1F)])
      (be 19 0x101013131515161619191A1A1C1C1F1FF85D47) = true := by decide +kernel
theorem test_keyKcvDes_VKEY1 :
    gives .keyKcvDes (loaded [(.key0, be 8 0x0000000000000000)])
      (be 3 0x8CA64D) = true := by decide +kernel
theorem test_keyKcvDes_VKEY10 : fails .keyKcvDes (loaded []) 0x02 = true := by
  decide +kernel
theorem test_keyKcvAes_VKEY3 :
    gives .keyKcvAes (loaded [(.key0, be 16 0x0123456789ABCDEFFEDCBA9876543210)])
      (be 3 0xD5C825) = true := by decide +kernel
theorem test_keyKcvAes_VKEY9 : fails .keyKcvAes (loaded [(.key0, be 8 0x0123456789ABCDEF)]) 0x02 = true := by
  decide +kernel
theorem test_parCheck_VKEY33 :
    run .parCheck (loaded [(.din, be 8 0x0123456789ABCDEF)]) = some (.done, 0x00, be 1 0x01, false, true) := by
  decide +kernel
theorem test_parCheck_VKEY34 :
    run .parCheck (loaded [(.din, be 8 0x0123456789ABCDEE)]) = some (.done, 0x00, be 1 0x00, false, false) := by
  decide +kernel
theorem test_parFix_VKEY38 :
    gives .parFix (loaded [(.din, be 8 0x0000FFFE01807F10)])
      (be 8 0x0101FEFE01807F10) = true := by decide +kernel
theorem test_parFix_VKEY42 : fails .parFix (loaded [] { State.reset with dinLen := 2000 }) 0x03 = true := by
  decide +kernel

/-! ## Published block examples (R139) -/

theorem test_des_R139 : desE (be 8 0x133457799BBCDFF1) (be 8 0x0123456789ABCDEF) = be 8 0x85E813540F0AB405 := by
  decide +kernel
theorem test_des_decrypt_R139 :
    desD (be 8 0x133457799BBCDFF1) (be 8 0x85E813540F0AB405) = be 8 0x0123456789ABCDEF := by decide +kernel

/-! ## Bus vectors V-BUS-1 to V-BUS-16 -/

/-- One 32-bit write. -/
def put (off : Offset) (v : Word) (s : State) : State := s.busWrite .w32 off v

/-- What a 32-bit read of the reset state returns. -/
def got (off : Offset) (s : State) : BusResp := s.busRead .w32 off

/-- A DONE state with two bytes of output. -/
def doneState : State :=
  { State.reset with st := .done, irqPending := true, doutLen := 2, mem := [(0x2000, 0x76), (0x2001, 0x49)] }

/-- Some state in BUSY. -/
def busyState : State := { State.reset with st := .busy, cmd := 0x24, ie := true }

theorem test_VBUS1_id : got 0 State.reset = .data 0x42505407 := by decide
theorem test_VBUS2_id_is_constant : put 0 0xFFFFFFFF State.reset = State.reset ∧ State.reset.busWriteResp .w32 0 = .written := by
  decide
theorem test_VBUS3_ctrl_reads_zero : got 4 State.reset = .data 0 := by decide
theorem test_VBUS4_key_window_is_secret :
    got 0x100 (put 0x100 0x01234567 State.reset) = .data 0 ∧ (put 0x100 0x01234567 State.reset).byte .key0 1 = 0x23
      := by
  decide
theorem test_VBUS5_big_endian_lanes :
    got 0x140 (put 0x140 0x00010203 State.reset) = .data 0x00010203 ∧
    (put 0x140 0x00010203 State.reset).byte .iv 3 = 0x03 := by decide
theorem test_VBUS6_ksn_low_lanes : got 0x158 (put 0x158 0xAABBCCDD State.reset) = .data 0xAABB0000 := by decide
theorem test_VBUS7_ien : got 0x10 (put 0x10 0xFFFFFFFF State.reset) = .data 1 := by decide
theorem test_VBUS8_atc : got 0x14 (put 0x14 0x12345678 State.reset) = .data 0x5678 := by decide
theorem test_VBUS9_cmd : got 0xC (put 0xC 0xDEADBEEF State.reset) = .data 0xDEADBEEF := by decide
theorem test_VBUS10_dout_is_read_only :
    put 0x2000 0x11111111 State.reset = State.reset ∧ got 0x2000 State.reset = .data 0 := by decide
theorem test_VBUS11_unmapped :
    ([0x18, 0x54, 0x200, 0x1400, 0x2440, 0x3FFC] : List Offset).all
      (fun o => got o State.reset == .busError && put o 7 State.reset == State.reset) = true := by decide
theorem test_VBUS12_bad_widths :
    State.reset.busRead .w16 0x140 = .busError ∧ State.reset.busRead .w8 0x140 = .busError ∧
    got 0x102 State.reset = .busError ∧ put 0x102 5 State.reset = State.reset := by decide
theorem test_VBUS13_ack_in_idle : put 4 2 State.reset = State.reset := by decide
theorem test_VBUS14_ack_keeps_dout :
    got 8 (put 4 2 doneState) = .data 0 ∧ got 0x50 (put 4 2 doneState) = .data 2 ∧
    got 0x2000 (put 4 2 doneState) = .data 0x76490000 := by decide
theorem test_VBUS15_start_from_done :
    (put 4 1 doneState).st = .busy ∧ (put 4 1 doneState).doutLen = 0 ∧ (put 4 1 doneState).irqPending = false ∧
    (put 4 1 doneState).mem = [] := by decide
theorem test_VBUS16_zeroize_alone :
    put 4 5 doneState = State.reset ∧ put 4 5 busyState = { State.reset with ie := true } := by decide

/-- A host write step and the read of the next step, as a script runs them (R20, R111). -/
theorem test_host_steps :
    (match step { State.reset with script := [.wr .w32 0x14 0x12345678, .rd .w32 0x14 3] } with
      | .next t => (match step t with
        | .next u => u.localVal 3
        | _ => none)
      | _ => none) = some 0x5678 := by decide

/-- Reading a result of three bytes: DOUT_LEN, one word, its first three bytes (R75, R112). -/
theorem test_rdb_lines : ScriptLine.lines (fun _ => 0) 0 (.rdb 1 0) = [.rd .w32 0x050 1, .rdDout 1 0] := by rfl
theorem test_rdb_reads_a_word :
    (match step { doneState with script := [.rdDout 1 0], locals := [(1, 3)] } with
      | .next t => some (t.pos, t.rdbWords)
      | _ => none) = some (0, [0x76490000]) := by decide
theorem test_rdb_drops_the_rest :
    (match step { doneState with script := [.rdDout 1 0], locals := [(1, 3)], rdbWords := [0x76490055] } with
      | .next t => some (t.pos, t.rdbWords, t.stringVal 0)
      | _ => none) = some (1, [], some [0x76, 0x49, 0x00]) := by decide

/-- A command that draws waits for a silent port; one that draws nothing does not (R344, U15). -/
theorem test_silent_port_stalls :
    (State.stalled { State.reset with st := .busy, cmd := 0x00010050, rngDown := true } = true) ∧
    (State.stalled { State.reset with st := .busy, cmd := 0x00000050, rngDown := true } = false) ∧
    (State.stalled { State.reset with st := .busy, cmd := 0x00010050 } = false) := by decide +kernel

/-- The smallest and the largest DATA_MAX of R9 lay out the window, and the default is 1024. -/
theorem test_data_max :
    State.reset.dataMax = 1024 ∧
    (got 0x1180 { State.reset with dataSize := 0 } = .busError ∧ got 0x117C { State.reset with dataSize := 0 } = .data 0) ∧
    (got 0x303C { State.reset with dataSize := 232 } = .data 0 ∧
      got 0x3040 { State.reset with dataSize := 232 } = .busError) := by decide

/-! ## Text vectors V-TXT-1 to V-TXT-10 -/

theorem test_VTXT1_unhex : unhex "2b7e 1516\n28AE d2a6".toList = .ok (be 8 0x2B7E151628AED2A6) := by rfl
theorem test_VTXT2_empty : unhex "".toList = .ok [] := by rfl
theorem test_VTXT3_odd : unhex "ABC".toList = .error .invalidHexInput := by rfl
theorem test_VTXT4_not_hex : unhex "0x12".toList = .error .invalidHexInput := by rfl
theorem test_VTXT5_hex : hex [0x8C, 0xA6, 0x4D] = "8CA64D".toList := by decide +kernel
theorem test_VTXT6_atc :
    atcOf "1".toList = .ok 0x0001 ∧ atcOf "0001".toList = .ok 0x0001 ∧ atcOf "001A".toList = .ok 0x001A ∧
    atcOf "12345".toList = .error .invalidHexInput := by refine ⟨?_, ?_, ?_, ?_⟩ <;> rfl
theorem test_VTXT7_pin : digitBytes "1234".toList = [1, 2, 3, 4] := by decide +kernel
theorem test_VTXT8_pin_letter : digitBytes "12a4".toList = [1, 2, 0x31, 4] := by decide +kernel
theorem test_VTXT9_compare : hexEqual "5dc15350 d9f5ad52".toList "5DC15350D9F5AD52".toList = .ok true := by rfl
theorem test_compare_no_hex : hexEqual "xy".toList "xy".toList = .error .invalidHexInput := by rfl
theorem test_digit_above_a_byte : digitBytes [Char.ofNat 0x130] = [0xFF] := by decide +kernel

/-- The worked image of R320 as a script, and its second input, which makes none. -/
def imageCall (data : String) : TextCall :=
  { command := .aesEcbEnc, args := [(.din, data.toList), (.key0, "2B7E151628AED2A6ABF7158809CF4F3C".toList)], atc := none }
theorem test_call_R320 :
    (imageCall "6bc1 bee2 2e40 9f96 e93d 7e11 7393 172a").script 1024 =
      .ok [.ldb .key0 (be 16 0x2B7E151628AED2A6ABF7158809CF4F3C), .ldb .din (be 16 0x6BC1BEE22E409F96E93D7E117393172A),
        .go .aesEcbEnc, .wait 0, .iferr 0 0, .rdb 1 0, .label 0, .ack] := by rfl
theorem test_call_R320_odd :
    (imageCall "6bc1 bee2 2e40 9f96 e93d 7e11 7393 172").script 1024 = .error .invalidHexInput := by rfl

/-- A value longer than its buffer: the first CAP bytes and the whole length (R315). -/
theorem test_load_too_long : loadLines 1024 .psn [1, 2, 3, 4, 5] = [.wr 0x1A0 0x01020304, .wr 0x034 5] := by rfl

/-- The result of a call on DONE: the name 0 holds STATUS, the byte string 0 the output (R319). -/
theorem test_call_result :
    (imageCall "").result { State.reset with locals := [(0, 0x12)], strings := [(0, [0x8C, 0xA6])] } =
      some (.ok "8CA6".toList) := by rfl
theorem test_VTXT10_pin_text : pinText [0x01, 0x02, 0x09, 0x0F] = "129F".toList := by decide +kernel

/-! ## Witnesses: for each statement with hypotheses, a state and operands that meet them; each clause at a boundary -/

/-- The next state of a command. -/
def after (i : Instr) (s : State) : State :=
  match exec i s with
  | .next t => t
  | _ => s

/-- The command answers a next state. -/
def answers (i : Instr) (s : State) : Bool :=
  match exec i s with
  | .next _ => true
  | _ => false

theorem exec_after (i : Instr) (s : State) (h : answers i s = true) : exec i s = .next (after i s) := by
  unfold answers at h; unfold after; split at h <;> simp_all

/-- The next state of a step, and that there is one. -/
def stepped (s : State) : State :=
  match step s with
  | .next t => t
  | _ => s
def steps (s : State) : Bool :=
  match step s with
  | .next _ => true
  | _ => false

theorem step_stepped (s : State) (h : steps s = true) : step s = .next (stepped s) := by
  unfold steps at h; unfold stepped; split at h <;> simp_all

/-- A state whose one script line is `l`. -/
def hosting (l : HostLine) (q : SeqState := .idle) : State :=
  { State.reset with script := [l], st := q, busyLeft := 1 }

/-- A state in which the core completes the word `w`. -/
def completing (w : Word) : State := { State.reset with st := .busy, cmd := w }

/-- Operand lengths alone. -/
def sized (key iv din : Nat) : State :=
  { State.reset with key0Len := BitVec.ofNat 8 key, ivLen := BitVec.ofNat 8 iv, dinLen := BitVec.ofNat 16 din }

theorem witness_reset_line : ({ busyState with resetIn := [true] } : State).resetIn.head? = some true := rfl

theorem witness_zeroize : (0x00000005 : Word).getLsbD 2 = true := by decide

theorem witness_ctrl_clauses :
    (0x00000007 : Word).getLsbD 2 = true ∧
    ((0x00000003 : Word).getLsbD 2 = false ∧ busyState.st = .busy) ∧
    ((0x00000003 : Word).getLsbD 2 = false ∧ doneState.st ≠ .busy ∧ (0x00000003 : Word).getLsbD 0 = true) ∧
    ((0x00000002 : Word).getLsbD 2 = false ∧ (0x00000002 : Word).getLsbD 0 = false ∧
      (0x00000002 : Word).getLsbD 1 = true ∧ (doneState.st = .done ∨ doneState.st = .error) ∧ State.reset.st =
        .idle) ∧
    ((0xFFFFFFF8 : Word).getLsbD 2 = false ∧ (0xFFFFFFF8 : Word).getLsbD 0 = false ∧
      (0xFFFFFFF8 : Word).getLsbD 1 = false) := by decide

/-- Each of the five listed events changes STATE. -/
theorem witness_state_changes :
    ([{ busyState with resetIn := [true] }, completing 0x24, hosting (.wr .w32 4 4) .busy, hosting (.wr .w32 4 1),
      hosting (.wr .w32 4 2) .error] : List State).all
      (fun s => steps s && (stepped s).st != s.st) = true := by decide

theorem witness_busy_writes :
    busyState.st = .busy ∧ ((0x008 : Offset) = 0x004 → (4 : Word).getLsbD 2 = false) ∧
    ((0x004 : Offset) = 0x004 → (3 : Word).getLsbD 2 = false) ∧ (4 : Word).getLsbD 2 = true ∧
    ((0x243C : Offset).toNat % 4 = 0 ∧ 0x2000 ≤ (0x243C : Offset).toNat ∧ (0x243C : Offset).toNat < 0x2440) ∧
    ((0x13FC : Offset) ≠ 0x008 ∧ (0x13FC : Offset) ≠ 0x050 ∧ (0x13FC : Offset).toNat < 0x2000) := by decide

theorem witness_mapped : Mapped 1024 (0x000 : Offset).toNat ∧ Mapped 1024 (0x243C : Offset).toNat ∧ ¬ Mapped 1024 0x018 ∧ ¬ Mapped 1024
  0x15C := by
  unfold Mapped; decide

theorem inv_busy : Inv (completing 0x24) :=
  { wf := rfl, stored := (fun _ h => nomatch h), pending := by decide, error := by decide, codes := by decide,
    flags := by decide, oneFlag := by decide, fits := by decide, tail := fun _ _ => rfl, output := by decide }

theorem witness_status_busy : Inv (completing 0x24) ∧ (completing 0x24).st = .busy := ⟨inv_busy, rfl⟩

theorem witness_bad_accesses :
    ¬ (AccessWidth.w16 = .w32 ∧ (0x140 : Offset).toNat % 4 = 0 ∧ Mapped 1024 (0x140 : Offset).toNat) ∧
    ¬ (AccessWidth.w32 = .w32 ∧ (0x0102 : Offset).toNat % 4 = 0 ∧ Mapped 1024 (0x0102 : Offset).toNat) ∧
    ¬ (AccessWidth.w32 = .w32 ∧ (0x1400 : Offset).toNat % 4 = 0 ∧ Mapped 1024 (0x1400 : Offset).toNat) ∧
    HostTurn (hosting (.wr .w32 0x1400 1)) (.wr .w32 0x1400 1) ∧ HostTurn (hosting (.rd .w16 0x140 0)) (.rd .w16
      0x140 0) := by
  unfold Mapped HostTurn; decide

theorem witness_buffer_words :
    (1084 % 4 = 0 ∧ 1084 < 1088) ∧
    ((Buf.ksn, 0x150, 10, 0x04C) ∈ bufferTable 1024 ∧ 8 % 4 = 0 ∧ 8 < 10 ∧ Buf.ksn ≠ .key0 ∧ Buf.ksn ≠ .key1 ∧ Buf.ksn ≠
      .pin) ∧
    ((Buf.pin, 0x1B0, 16, 0x038) ∈ bufferTable 1024 ∧ 12 % 4 = 0 ∧ 12 < 16) ∧
    ((Buf.din, 0x1000, 1024, 0x02C) ∈ bufferTable 1024 ∧ 1020 % 4 = 0 ∧ 1020 < 1024) ∧ State.reset.st ≠ .busy := by decide

theorem witness_ksn_window :
    ({ sized 16 0 0 with ksnLen := 9 } : State).len .ksn ≠ 10 ∧ ({ sized 16 0 0 with ksnLen := 9 } : State).len
      .key0 = 16 ∧
    ({ sized 16 0 0 with ksnLen := 11 } : State).len .ksn ≠ 10 := by decide

theorem witness_secret_windows :
    ((0x100 : Offset).toNat % 4 = 0 ∧ 0x100 ≤ (0x100 : Offset).toNat ∧ (0x100 : Offset).toNat < 0x140) ∧
    ((0x1BC : Offset).toNat % 4 = 0 ∧ 0x1B0 ≤ (0x1BC : Offset).toNat ∧ (0x1BC : Offset).toNat < 0x1C0) ∧
    HostTurn (hosting (.rd .w32 0x100 0)) (.rd .w32 0x100 0) := ⟨by decide, by decide, rfl, rfl, rfl⟩

theorem witness_register_writes :
    doneState.st ≠ .busy ∧ (Buf.key0, 0x100, 32, 0x020) ∈ bufferTable 1024 ∧ (Buf.din, 0x1000, 1024, 0x02C) ∈ bufferTable 1024
      := by
  decide

theorem witness_interrupt :
    CoreTurn (completing 0x24) ∧
    answers .ksnInc State.reset = true ∧
    (doneState.st ≠ .busy ∧ ((2 : Word).getLsbD 0 = true ∨ (2 : Word).getLsbD 1 = true ∧ doneState.st ≠ .idle)) ∧
    (State.reset.st ≠ .busy ∧ ((1 : Word).getLsbD 0 = true ∨ (1 : Word).getLsbD 1 = true ∧ State.reset.st ≠ .idle)) ∧
    (({ busyState with resetIn := [true] } : State).resetIn.headD false = true ∧
      steps { busyState with resetIn := [true] } = true) ∧
    (steps (completing 0x24) = true ∧ (completing 0x24).irqPending = false ∧
      (stepped (completing 0x24)).irqPending = true) := by unfold CoreTurn; decide +kernel

theorem witness_step_runs :
    (CoreTurn (completing 0x24) ∧ decode (completing 0x24).cmd = .ok .ksnInc) ∧
    (CoreTurn (completing 0) ∧ decode (completing 0).cmd = .error .illegalCommand) ∧
    HostTurn (hosting .halt) .halt ∧ decode 0x000F1051 = .ok (.keySplitAes 15) := by
  refine ⟨⟨?_, rfl⟩, ⟨?_, rfl⟩, ?_, rfl⟩ <;> (first | unfold CoreTurn | unfold HostTurn) <;> decide

theorem witness_rdb :
    HostTurn { hosting (.rdDout 1 0) with locals := [(1, 4)] } (.rdDout 1 0) ∧
    State.localVal { hosting (.rdDout 1 0) with locals := [(1, 4)] } 1 = some 4 ∧
    4 * (hosting (.rdDout 1 0)).rdbWords.length < (4 : Word).toNat ∧ (0 : Word).toNat ≤ 4 * State.reset.rdbWords.length :=
  ⟨⟨rfl, rfl, rfl⟩, rfl, by decide, by decide⟩

/-- An argument of a call that is no hex text. -/
theorem witness_bad_argument : ∀ a : Bytes, unhex "ABC".toList ≠ .ok a := by
  have h : unhex "ABC".toList = .error .invalidHexInput := rfl
  intro a
  rw [h]
  simp

theorem witness_legal_word : LegalByFields 0x000F1052 :=
  ⟨by decide, by decide, { alg := 2, arg := 16 }, rfl, by decide, by decide, by decide, by decide, by decide, by
    decide⟩

theorem witness_illegal_words :
    ¬ LegalByFields 0x00050040 ∧ ¬ LegalByFields 0x00002001 ∧ ¬ LegalByFields 0x00000000 ∧
    CoreTurn (completing 0x00050040) := by
  refine ⟨?_, ?_, ?_, by unfold CoreTurn; decide⟩
  · rintro ⟨-, -, l, h, -, -, -, ha, -⟩
    have : opcodeLimits (cmdField 0x00050040 0 8) = some { arg := 5 } := rfl
    rw [this] at h; cases h; revert ha; decide
  · rintro ⟨h, -⟩; revert h; decide
  · rintro ⟨-, -, l, h, -⟩
    have : opcodeLimits (cmdField 0x00000000 0 8) = none := rfl
    rw [this] at h; cases h

theorem witness_well_formed : (Instr.keySplitAes 15).wellFormed = true ∧ (Instr.desEcbEnc).wellFormed = true := by
  decide

theorem witness_decoder_table :
    (∃ r ∈ opcodeTable, (0x000F0050 : Word) &&& r.mask = r.pattern) ∧
    (∀ r ∈ opcodeTable, (0x00100050 : Word) &&& r.mask ≠ r.pattern) ∧ decode 0x000F0050 = .ok (.keyGenDes 15) := by
  refine ⟨by decide, by decide, rfl⟩

/-- A command ends in DONE with each flag, in DONE with draws, and in ERROR. -/
theorem witness_all_commands :
    (answers .parCheck State.reset = true ∧ (after .parCheck State.reset).parok = true) ∧
    (answers .ksnInc State.reset = true ∧ (after .ksnInc State.reset).st = .error) ∧
    (answers (.keyGenDes 1) State.reset = true ∧ (after (.keyGenDes 1) State.reset).st = .done) := by
  refine ⟨?_, ?_, ?_⟩ <;> decide +kernel

/-- KEY.GEN of one component in BUSY, a random port that does not answer, and a host script that zeroizes. -/
def stalling : State :=
  { State.reset with st := .busy, cmd := 0x00010050, rngDown := true, script := [.wr .w32 4 4] }

/-- PIN.CREATE with the fewest and with the most draws; a stalled command stays BUSY or is zeroized. -/
theorem witness_draw_counts :
    (stalling.stalled = true ∧ decode stalling.cmd = .ok (.keyGenDes 1) ∧ steps stalling = true ∧
      (stepped stalling).st = .idle ∧ (stepped { stalling with script := [] }).st = .busy) ∧
    ∀ n ∈ [4, 12], ∀ i ∈ [Instr.pinCreateIso1, Instr.pinCreateIso3],
      answers i (loaded [(.pin, List.replicate n 9)]) = true ∧
        (after i (loaded [(.pin, List.replicate n 9)])).st = .done := by
  decide +kernel

/-- Two states that differ in KEY0, ATC and DIN but agree on what KSN.INC reads. -/
theorem witness_operands_matter :
    let s := loaded [(.ksn, be 10 0xFFFF9876543210E00008)]
    let s' := loaded [(.ksn, be 10 0xFFFF9876543210E00008), (.key0, [1, 2, 3]), (.din, [7])]
      { State.reset with atc := 9 }
    (∀ b ∈ readsOf .ksnInc, s.len b = s'.len b ∧ ∀ k : Nat, k < s.len b → k < s.cap b → s.byte b k = s'.byte b k) ∧
    s.dataSize = s'.dataSize ∧ ¬ Instr.ksnInc ∈ atcReaders ∧ drawCount .ksnInc s = 0 ∧ answers .ksnInc s = true ∧ answers .ksnInc s' = true := by
  decide +kernel

theorem witness_legal_keys :
    (∀ n ∈ [8, 16, 24], LegalKey .des n) ∧ (∀ n ∈ [16, 24, 32], LegalKey .aes n) ∧ ¬ LegalKey .des 32 ∧ ¬ LegalKey
      .aes 8 ∧
    (zeros 8).length = Alg.des.block ∧ (zeros 16).length = Alg.aes.block := by
  unfold LegalKey; decide

/-- The cipher statements: each family with its shortest and longest key, no data and DATA_MAX bytes, every mode. -/
theorem witness_cipher_ready :
    ∀ m : Mode,
      CipherReady (sized 8 8 0) .des m ∧ CipherReady (sized 24 8 1024) .des m ∧
      CipherReady (sized 16 16 0) .aes m ∧ CipherReady (sized 32 16 1024) .aes m := by
  intro m
  unfold CipherReady LegalKey LegalIv LegalData; cases m <;> decide

theorem witness_ecb_ignores_iv : CipherReady (sized 8 3 8) .des .ecb := by
  unfold CipherReady LegalKey LegalIv LegalData; decide

theorem witness_cipher_checks :
    ¬ LegalKey .des ((sized 7 8 8).len .key0) ∧
    (LegalKey .des ((sized 8 7 8).len .key0) ∧ ¬ LegalIv (sized 8 7 8) .des .cbc) ∧
    (LegalIv (sized 8 8 1032) .des .cbc ∧ ¬ LegalData (sized 8 8 1032) .des) ∧ ¬ LegalData (sized 8 8 1) .des ∧
    (Instr.desCbcDec, Alg.des, Mode.cbc) ∈ cipherTable := by
  unfold LegalKey LegalIv LegalData; decide

/-- The state of V-CIPH-15's key with one data block, and the state with its output as data. -/
def plainState : State := loaded [(.key0, be 8 0x0123456789ABCDEF), (.din, be 8 0x4E6F772069732074)]
def cipherState : State :=
  loaded [(.key0, be 8 0x0123456789ABCDEF), (.din, (after .desEcbEnc plainState).output)]

theorem witness_cipher_round_trip :
    (Instr.desEcbEnc, Instr.desEcbDec, Alg.des, Mode.ecb) ∈ cipherPairs ∧ CipherReady plainState .des .ecb ∧
    exec .desEcbEnc plainState = .next (after .desEcbEnc plainState) ∧ cipherState.dataSize = plainState.dataSize ∧
    cipherState.operand .key0 = plainState.operand .key0 ∧ cipherState.operand .iv = plainState.operand .iv ∧
    cipherState.operand .din = (after .desEcbEnc plainState).output := by
  refine ⟨by decide, ?_, exec_after _ _ (by decide +kernel), by decide +kernel, by decide +kernel, by decide +kernel, by decide +kernel⟩
  unfold CipherReady LegalKey LegalIv LegalData; decide +kernel

theorem witness_mac_cbc :
    ¬ LegalKey .aes ((sized 8 16 16).len .key0) ∧ (LegalKey .aes ((sized 16 8 16).len .key0) ∧ (sized 16 8 16).len
      .iv ≠ 16) ∧
    ((sized 16 16 0).len .iv = 16 ∧ (sized 16 16 0).len .din = 0) ∧ ¬ LegalData (sized 16 16 1040) .aes ∧
    (CipherReady (sized 16 16 16) .aes .cbc ∧ (sized 16 16 16).len .din ≠ 0) := by
  unfold CipherReady LegalKey LegalIv LegalData; decide

theorem witness_mac_retail :
    (sized 15 0 0).len .key0 ≠ 16 ∧ ((sized 16 7 0).len .iv ≠ 0 ∧ (sized 16 7 0).len .iv ≠ 8) ∧
    ((sized 16 0 1025).len .din > State.reset.dataMax) ∧
    ((sized 16 8 1024).len .key0 = 16 ∧ (sized 16 8 1024).len .iv = 8 ∧ (sized 16 8 1024).len .din ≤ State.reset.dataMax)
      := by
  decide

theorem witness_mac_cmac :
    ¬ LegalKey .aes ((sized 8 0 0).len .key0) ∧ (LegalKey .aes ((sized 32 0 1025).len .key0) ∧
      (sized 32 0 1025).len .din > State.reset.dataMax) ∧ (LegalKey .aes ((sized 24 0 0).len .key0) ∧
      (sized 24 0 0).len .din ≤ State.reset.dataMax) ∧ (zeros 16).length = 16 := by
  unfold LegalKey; decide

/-- A card's operands: digits up to the capacity of PAN and PSN, the longest UN and AUX0. -/
def cardState : State :=
  loaded [(.key0, zeros 16), (.pan, List.replicate 32 9), (.psn, List.replicate 4 9), (.un, zeros 8), (.aux0, zeros
    8)]

theorem witness_card :
    CardReady cardState ∧ cardState.len .aux0 = 8 ∧ CardReady { cardState with dinLen := 1024 } ∧
    CardReady (sized 16 0 0) := by
  unfold CardReady LegalDigits; decide +kernel

theorem witness_card_checks :
    ¬ LegalDigits (loaded [(.pan, [0x0A])]) .pan ∧ ¬ LegalDigits { cardState with psnLen := 5 } .psn ∧
    ¬ (({ cardState with unLen := 9 } : State).len .un ≤ 8) ∧ ({ cardState with dinLen := 1025 } : State).len .din >
      State.reset.dataMax ∧
    ({ cardState with aux0Len := 7 } : State).len .aux0 ≠ 8 ∧ (sized 8 0 0).len .key0 ≠ 16 ∧
    (Instr.acGenTcMc, (0x01 : Byte), Method.mastercard, (0x00600030 : Word)) ∈ acGenTable ∧
    (Instr.acVerifyMc, Method.mastercard, (0x00200031 : Word)) ∈ acVerifyTable ∧
    (Instr.kdSkMc, Method.mastercard, (0x00200021 : Word)) ∈ sessionKeyTable := by
  unfold LegalDigits; decide +kernel

theorem witness_ksn :
    (loaded [(.ksn, be 10 0xFFFF9876543210FFFFFF)]).len .ksn = 10 ∧
    int ((loaded [(.ksn, be 10 0xFFFF9876543210FFFFFF)]).operand .ksn) % 2 ^ 21 = 0x1FFFFF ∧
    int ((loaded [(.ksn, be 10 0xFFFF9876543210FFFFFE)]).operand .ksn) % 2 ^ 21 ≠ 0x1FFFFF ∧
    (loaded [(.ksn, be 10 0xFFFF9876543210E00000), (.key0, zeros 16)]).len .key0 = 16 := by decide +kernel

theorem witness_arpc :
    (cardState.len .key0 = 16 ∧ cardState.len .aux0 = 8 ∧ cardState.len .aux1 ≤ 8 ∧ cardState.len .aux2 ≤ 8) ∧
    ¬ (({ cardState with aux1Len := 9 } : State).len .aux1 ≤ 8) ∧ ({ cardState with aux2Len := 8 } : State).len
      .aux2 ≤ 8 := by
  decide +kernel

/-- A PIN of the shortest and of the longest length, with a PAN. -/
def pinState (n : Nat) : State :=
  loaded [(.pin, List.replicate n 9), (.pan, List.replicate 32 9)]
    { State.reset with rngQueue := be 8 0x0123456789ABCDEF }

theorem witness_pin_create :
    (∀ n ∈ [4, 12], 4 ≤ (pinState n).len .pin ∧ (pinState n).len .pin ≤ 12 ∧ LegalDigits (pinState n) .pin ∧
      ∀ f ∈ [PinFormat.iso0, .iso1, .iso2, .iso3, .iso4], LegalPan f (pinState n)) ∧
    (pinState 3).len .pin = 3 ∧ (pinState 13).len .pin = 13 ∧ ¬ LegalDigits (loaded [(.pin, [1, 2, 3, 0x0A])]) .pin ∧
    (PinFormat.iso3, Instr.pinCreateIso3, Instr.pinExtractIso3, Instr.pinDecryptIso3) ∈ pinTable := by
  unfold LegalPan LegalDigits; decide +kernel

/-- A clear ISO-2 block with the length nibble `n`, and the same for every format without the PAN. -/
def blockState (n : Nat) : State := loaded [(.aux0, BitVec.ofNat 8 (0x20 + n) :: List.replicate 7 0x99), (.key0,
  zeros 8)]

theorem witness_pin_extract :
    (∀ n ∈ [4, 12], (blockState n).len .aux0 = 8 ∧ LegalPan .iso2 (blockState n) ∧
      LegalPinNibble .iso2 (blockState n) ((blockState n).operand .aux0)) ∧
    (∀ n ∈ [3, 13], ¬ LegalPinNibble .iso2 (blockState n) ((blockState n).operand .aux0)) ∧
    ({ blockState 4 with aux0Len := 7 } : State).len .aux0 ≠ 8 ∧
    (∀ f ∈ [PinFormat.iso0, .iso1, .iso2, .iso3, .iso4], LegalPan f (blockState 4) ∧
      LegalPinNibble f (blockState 4) ((blockState 4).operand .aux0)) := by
  unfold LegalPinNibble LegalPan LegalDigits; decide +kernel

/-- A block under the zero key whose clear block has the length nibble 4. -/
def sealedState : State := loaded [(.aux0, desE (zeros 8) (be 8 0x24999999FFFFFFFF)), (.key0, zeros 8)]

theorem witness_pin_decrypt :
    LegalKey .des (sealedState.len .key0) ∧ sealedState.len .aux0 = 8 ∧ LegalPan .iso2 sealedState ∧
    LegalPinNibble .iso2 sealedState (blockD .des (sealedState.operand .key0) (sealedState.operand .aux0)) ∧
    ¬ LegalPinNibble .iso2 (loaded [(.aux0, desE (zeros 8) (be 8 0x2D999999FFFFFFFF)), (.key0, zeros 8)])
      (blockD .des (zeros 8) (desE (zeros 8) (be 8 0x2D999999FFFFFFFF))) := by
  unfold LegalKey LegalPan LegalPinNibble LegalDigits; decide +kernel

theorem witness_pin_round_trip :
    ∀ p ∈ pinTable, answers p.2.1 (pinState 12) = true ∧ (after p.2.1 (pinState 12)).st = .done ∧
      (loaded [(.aux0, (after p.2.1 (pinState 12)).output), (.pan, List.replicate 32 9)]).operand .aux0 =
        (after p.2.1 (pinState 12)).output ∧
      (loaded [(.aux0, (after p.2.1 (pinState 12)).output), (.pan, List.replicate 32 9)]).operand .pan =
        (pinState 12).operand .pan := by decide +kernel

theorem witness_pin_translate :
    LegalKey .des ({ sized 8 0 0 with key1Len := 24, aux0Len := 8 } : State).key0Len.toNat ∧
    LegalKey .des (({ sized 8 0 0 with key1Len := 24, aux0Len := 8 } : State).len .key1) ∧
    ({ sized 8 0 0 with key1Len := 24, aux0Len := 8 } : State).len .aux0 = 8 ∧
    ¬ LegalKey .des ((sized 8 0 0).len .key1) ∧ ({ sized 8 0 0 with key1Len := 8 } : State).len .aux0 ≠ 8 := by
  unfold LegalKey; decide

theorem witness_key_gen :
    (∀ c ∈ [1, 2, 3], LegalKey .des (8 * c)) ∧ (∀ c ∈ [2, 3, 4], LegalKey .aes (8 * c)) ∧ ¬ LegalKey .des (8 * 0) ∧
    ¬ LegalKey .aes (8 * 15) := by unfold LegalKey; decide

theorem witness_key_split :
    LegalKey .des ((sized 8 0 0).len .key0) ∧ LegalKey .aes ((sized 32 0 0).len .key0) ∧ (2 ≤ 2 ∧ 2 ≤ 9) ∧ (2 ≤ 9 ∧
      9 ≤ 9) ∧
    (1 < 2 ∨ 1 > 9) ∧ (10 < 2 ∨ 10 > 9) ∧ ¬ LegalKey .aes ((sized 8 0 0).len .key0) := by unfold LegalKey; decide

/-- Fifteen component records of eight bytes; two of different lengths; two of seven bytes; none. -/
theorem witness_key_combine :
    (∀ n ∈ [1, 2, 15], ParsesAs (loaded [(.din, recordsOf (List.replicate n (zeros 8)))]) (List.replicate n (zeros
      8)) ∧
      (∀ v ∈ List.replicate n (zeros 8), v.length = 8) ∧ LegalKey .des 8) ∧
    ParsesAs (loaded [(.din, recordsOf [zeros 8, zeros 9])]) [zeros 8, zeros 9] ∧
    (ParsesAs (loaded [(.din, recordsOf [zeros 7, zeros 7])]) [zeros 7, zeros 7] ∧ ¬ LegalKey .des 7) := by
  unfold ParsesAs LegalKey; decide +kernel

theorem witness_key_combine_lengths_differ : ¬ ∃ l : Nat, ∀ v ∈ [zeros 8, zeros 9], v.length = l := by
  rintro ⟨l, h⟩
  have h1 := h (zeros 8) (by simp)
  have h2 := h (zeros 9) (by simp)
  simp [zeros] at h1 h2; omega

theorem witness_key_combine_no_parse : ¬ ∃ vs : List Bytes, vs.length = 1 ∧ ParsesAs State.reset vs := by
  rintro ⟨vs, hl, -, h⟩
  match vs, hl with
  | [v], _ => revert h; simp [recordsOf, State.operand, State.len, State.reset, Memory.readBytes]

/-- A DES key to split, with the bytes of one draw, and the state that combines the two components of its share. -/
def splitState : State := loaded [(.key0, be 8 0x0123456789ABCDEF)] { State.reset with rngQueue := be 8 7 }
def joinState : State :=
  loaded [(.din, recordsOf ((List.range 2).map fun i =>
    slice (after (.keySplitDes 2) splitState).output (6 + 8 + i * (8 + 4)) (6 + 8 + i * (8 + 4) + 8)))]

theorem witness_split_then_combine :
    LegalKey .des (splitState.len .key0) ∧ splitState.len .key0 = 8 ∧ answers (.keySplitDes 2) splitState = true ∧
    joinState.operand .din = recordsOf ((List.range 2).map fun i =>
      slice (after (.keySplitDes 2) splitState).output (6 + 8 + i * (8 + 4)) (6 + 8 + i * (8 + 4) + 8)) := by
  unfold LegalKey; decide +kernel

theorem witness_key_kcv :
    LegalKey .des ((sized 24 0 0).len .key0) ∧ LegalKey .aes ((sized 24 0 0).len .key0) ∧
    ¬ LegalKey .des ((sized 32 0 0).len .key0) := by unfold LegalKey; decide

theorem witness_parity :
    (sized 0 0 1025).len .din > State.reset.dataMax ∧
    ((loaded [(.din, [0x01, 0xFE])]).len .din ≤ State.reset.dataMax ∧
      ∀ b ∈ (loaded [(.din, [0x01, 0xFE])]).operand .din, ones b % 2 = 1) ∧
    ¬ (∀ b ∈ (loaded [(.din, [0x01, 0x00])]).operand .din, ones b % 2 = 1) ∧
    (∀ b ∈ State.reset.operand .din, ones b % 2 = 1) := by decide +kernel

theorem witness_invariant_step :
    Inv (completing 0x24) ∧ step (completing 0x24) = .next (stepped (completing 0x24)) :=
  ⟨inv_busy, step_stepped _ (by decide)⟩

/-- The canonical form after a load: zero bytes have no cell. -/
theorem test_memory_canonical : (loaded [(.iv, [0, 5, 0, 7])]).mem = [(0x141, 5), (0x143, 7)] := by decide

end Sys2Proof.Tests
end

section
/-! PROOFS. Noninterference: two runs of one command end alike when the states agree on what the command reads (R15, R39,
R333). First what the two states share, then what two completions share, then each shared command operation once. -/

namespace Sys2Proof.Machine

/-! ## States that agree on some buffers -/

/-- Two states of one implementation that agree on the lengths of the buffers `bs`, and on their bytes below the length
and the capacity (R30, R39). -/
structure SameOn (bs : List Buf) (s s' : State) : Prop where
  dataSize : s.dataSize = s'.dataSize
  len : ∀ b ∈ bs, s.len b = s'.len b
  byte : ∀ b ∈ bs, ∀ k : Nat, k < s.len b → k < s.cap b → s.byte b k = s'.byte b k

section
variable {bs : List Buf} {s s' : State}

theorem SameOn.mono (h : SameOn bs s s') {cs : List Buf} (hc : cs ⊆ bs) : SameOn cs s s' :=
  ⟨h.dataSize, fun b hb => h.len b (hc hb), fun b hb => h.byte b (hc hb)⟩

theorem SameOn.dataMax (h : SameOn bs s s') : s.dataMax = s'.dataMax := State.dataMax_congr h.dataSize

theorem SameOn.cap (h : SameOn bs s s') (b : Buf) : s.cap b = s'.cap b := State.cap_congr h.dataSize b

/-- An operand within its capacity is the same; past the capacity the states may differ, so every command has to check the
length before it uses the bytes (R338). -/
theorem SameOn.operand (h : SameOn bs s s') {b : Buf} (hb : b ∈ bs) (hl : s.len b ≤ s.cap b) :
    s.operand b = s'.operand b :=
  operand_congr s s' b (h.len b hb) fun k hk => h.byte b hb k hk (Nat.lt_of_lt_of_le hk hl)

theorem Alg.block_le (alg : Alg) : alg.block ≤ 16 := by cases alg <;> decide

/-! The checks of R333 and R336 answer the same, and the operand behind a passed check is the same. -/

theorem SameOn.key0Ok (h : SameOn bs s s') (hb : .key0 ∈ bs) (alg : Alg) : s.key0Ok alg = s'.key0Ok alg := by
  rw [State.key0Ok, State.key0Ok, h.len _ hb]

theorem SameOn.key1Ok (h : SameOn bs s s') (hb : .key1 ∈ bs) : s.key1Ok = s'.key1Ok := by
  rw [State.key1Ok, State.key1Ok, h.len _ hb]

theorem SameOn.key16 (h : SameOn bs s s') (hb : .key0 ∈ bs) : s.key16 = s'.key16 := by
  rw [State.key16, State.key16, h.len _ hb]

theorem SameOn.ksn10 (h : SameOn bs s s') (hb : .ksn ∈ bs) : s.ksn10 = s'.ksn10 := by
  rw [State.ksn10, State.ksn10, h.len _ hb]

theorem SameOn.dinFits (h : SameOn bs s s') (hb : .din ∈ bs) : s.dinFits = s'.dinFits := by
  rw [State.dinFits, State.dinFits, h.len _ hb, h.dataMax]

theorem SameOn.dinWhole (h : SameOn bs s s') (hb : .din ∈ bs) (alg : Alg) : s.dinWhole alg = s'.dinWhole alg := by
  rw [State.dinWhole, State.dinWhole, h.dinFits hb, h.len _ hb]

/-- A digit buffer is legal or illegal in both: the test looks at bytes only when the length is within the capacity. -/
theorem SameOn.digitsOk (h : SameOn bs s s') {b : Buf} (hb : b ∈ bs) : s.digitsOk b = s'.digitsOk b := by
  rw [Bool.eq_iff_iff, digitsOk_iff, digitsOk_iff, LegalDigits, LegalDigits, ← h.len b hb, ← h.cap b]
  refine and_congr_right fun hl => forall₂_congr fun k hk => ?_
  rw [h.byte b hb k hk (Nat.lt_of_lt_of_le hk hl)]

theorem SameOn.cardOk (h : SameOn bs s s') (hp : .pan ∈ bs) (hn : .psn ∈ bs) : s.cardOk = s'.cardOk := by
  rw [State.cardOk, State.cardOk, h.digitsOk hp, h.digitsOk hn]

theorem SameOn.panOk (h : SameOn bs s s') {f : PinFormat} (hp : f.usesPan = true → .pan ∈ bs) :
    s.panOk f = s'.panOk f := by
  unfold State.panOk
  cases hf : f.usesPan
  · rfl
  · rw [h.digitsOk (hp hf)]

theorem LegalKey.le_32 {alg : Alg} {n : Nat} (h : LegalKey alg n) : n ≤ 32 := by
  unfold LegalKey at h
  omega

theorem SameOn.key0_of_ok (h : SameOn bs s s') (hb : .key0 ∈ bs) {alg : Alg} (hk : s.key0Ok alg = true) :
    s.operand .key0 = s'.operand .key0 :=
  h.operand hb ((key0Ok_iff s alg).mp hk).le_32

theorem SameOn.key1_of_ok (h : SameOn bs s s') (hb : .key1 ∈ bs) (hk : s.key1Ok = true) :
    s.operand .key1 = s'.operand .key1 :=
  h.operand hb ((keyLenOk_iff .des _).mp hk).le_32

theorem SameOn.key0_of_key16 (h : SameOn bs s s') (hb : .key0 ∈ bs) (hk : s.key16 = true) :
    s.operand .key0 = s'.operand .key0 :=
  h.operand hb (((key16_iff s).mp hk).trans_le (show 16 ≤ 32 by decide))

theorem SameOn.ksn_of_ksn10 (h : SameOn bs s s') (hb : .ksn ∈ bs) (hk : s.ksn10 = true) :
    s.operand .ksn = s'.operand .ksn :=
  h.operand hb ((ksn10_iff s).mp hk).le

theorem SameOn.din_of_fits (h : SameOn bs s s') (hb : .din ∈ bs) (hx : s.dinFits = true) :
    s.operand .din = s'.operand .din :=
  h.operand hb ((dinFits_iff s).mp hx)

theorem SameOn.dinBlocks_of_whole (h : SameOn bs s s') (hb : .din ∈ bs) {alg : Alg} (hx : s.dinWhole alg = true) :
    s.dinBlocks alg = s'.dinBlocks alg := by
  rw [State.dinBlocks, State.dinBlocks, ← h.len _ hb, h.operand hb ((dinWhole_iff s alg).mp hx).1]

theorem SameOn.digits_of_ok (h : SameOn bs s s') {b : Buf} (hb : b ∈ bs) (hd : s.digitsOk b = true) :
    s.operand b = s'.operand b :=
  h.operand hb ((digitsOk_iff s b).mp hd).1

theorem SameOn.aux0_of_len (h : SameOn bs s s') (hb : .aux0 ∈ bs) (hl : (s.len .aux0 == 8) = true) :
    s.operand .aux0 = s'.operand .aux0 :=
  h.operand hb (beq_iff_eq.mp hl).le

/-- The block of a format without the PAN does not depend on it (R254). -/
theorem maskPan_congr {f : PinFormat} {pan pan' : Bytes} (h : f.usesPan = true → pan = pan') (block : Bytes) :
    maskPan f block pan = maskPan f block pan' := by
  unfold maskPan
  split
  · rw [h ‹_›]
  · rfl

theorem SameOn.maskPan_of_ok (h : SameOn bs s s') {f : PinFormat} (hp : f.usesPan = true → .pan ∈ bs)
    (hd : s.panOk f = true) (block : Bytes) :
    maskPan f block (s.operand .pan) = maskPan f block (s'.operand .pan) :=
  maskPan_congr (fun hf => h.digits_of_ok (hp hf) (by simpa [State.panOk, hf] using hd)) block

theorem SameOn.extractPin_of_ok (h : SameOn bs s s') {f : PinFormat} (hp : f.usesPan = true → .pan ∈ bs)
    (hd : s.panOk f = true) (block : Bytes) :
    extractPin f block (s.operand .pan) = extractPin f block (s'.operand .pan) := by
  rw [extractPin, extractPin, h.maskPan_of_ok hp hd]

/-- Equal draws give equal random strings (R14). -/
theorem drawn_congr {n : Nat} (h : ∀ k : Nat, k < n → s.rngAt k = s'.rngAt k) : s.drawn n = s'.drawn n :=
  List.map_congr_left fun k hk => h k (List.mem_range.mp hk)

end

/-! ## Completions that agree -/

/-- The results of two completions are the same: STATE, ERR, the flags, DOUT_LEN and the `m` bytes of DOUT. -/
structure SameResult (m : Nat) (t t' : State) : Prop where
  st : t.st = t'.st
  err : t.err = t'.err
  vfail : t.vfail = t'.vfail
  parok : t.parok = t'.parok
  doutLen : t.doutLen = t'.doutLen
  dout : ∀ k : Nat, k < m → t.doutByte k = t'.doutByte k

/-- If both outcomes are next states, the results are the same. -/
def OutsAgree (m : Nat) (o o' : Out) : Prop := ∀ t t' : State, o = .next t → o' = .next t' → SameResult m t t'

/-- `setDout` decides every byte of DOUT, whatever stood there (R36). -/
theorem setDout_doutByte (s : State) (v : Bytes) (k : Nat) (hk : k < s.doutMax) :
    (s.setDout v).doutByte k = (v.take s.doutMax).getD k 0 := by
  have hmem : (s.setDout v).mem = (s.setDout (v.take s.doutMax)).mem := by simp [List.take_take]
  rw [State.doutByte, hmem, State.setDout_read s _ _ (List.length_take_le _ _),
    if_pos ⟨Nat.le_add_right _ _, Nat.add_lt_add_left hk _⟩, Nat.add_sub_cancel_left]

section
variable {s s' : State} {m : Nat}

/-- What a completion writes does not depend on the state it completes (R334, R335). -/
theorem complete_sameResult (h : s.dataSize = s'.dataSize) (q : SeqState) (e : BitVec 8) (vf pk : Bool) (v : Bytes) :
    SameResult s.doutMax (s.complete q e vf pk v) (s'.complete q e vf pk v) where
  st := rfl
  err := rfl
  vfail := rfl
  parok := rfl
  doutLen := rfl
  dout k hk := by
    have hm : s.doutMax = s'.doutMax := State.doutMax_congr h
    calc (s.setDout v).doutByte k
      _ = (v.take s.doutMax).getD k 0 := setDout_doutByte s v k hk
      _ = (v.take s'.doutMax).getD k 0 := by rw [hm]
      _ = (s'.setDout v).doutByte k := (setDout_doutByte s' v k (hm ▸ hk)).symm

theorem outsAgree_next {t t' : State} (h : SameResult m t t') : OutsAgree m (.next t) (.next t') := by
  rintro u u' ⟨⟩ ⟨⟩
  exact h

theorem raise_agree (h : s.dataSize = s'.dataSize) (k : ErrKind) : OutsAgree s.doutMax (raise k s) (raise k s') :=
  outsAgree_next (complete_sameResult h ..)

theorem done_agree (h : s.dataSize = s'.dataSize) {v v' : Bytes} (hv : v = v') :
    OutsAgree s.doutMax (done v s) (done v' s') := by
  subst hv
  exact outsAgree_next (complete_sameResult h ..)

theorem doneVfail_agree (h : s.dataSize = s'.dataSize) (vf : Bool) (v : Bytes) :
    OutsAgree s.doutMax (doneVfail vf v s) (doneVfail vf v s') :=
  outsAgree_next (complete_sameResult h ..)

theorem doneParok_agree (h : s.dataSize = s'.dataSize) (pk : Bool) (v : Bytes) :
    OutsAgree s.doutMax (doneParok pk v s) (doneParok pk v s') :=
  outsAgree_next (complete_sameResult h ..)

theorem complete_agree (h : s.dataSize = s'.dataSize) {r r' : Except ErrKind Bytes} (hr : r = r') :
    OutsAgree s.doutMax (complete r s) (complete r' s') := by
  subst hr
  cases r with
  | ok v => exact done_agree h rfl
  | error k => exact raise_agree h k

/-- One check of a command: it answers the same in both states, so both raise or both go on. -/
theorem raise_if_agree (h : s.dataSize = s'.dataSize) {p p' : Prop} [Decidable p] [Decidable p'] (hp : p ↔ p')
    (k : ErrKind) {o o' : Out} (ho : ¬ p → OutsAgree s.doutMax o o') :
    OutsAgree s.doutMax (if p then raise k s else o) (if p' then raise k s' else o') := by
  by_cases hc : p
  · rw [if_pos hc, if_pos (hp.mp hc)]
    exact raise_agree h k
  · rw [if_neg hc, if_neg fun hc' => hc (hp.mpr hc')]
    exact ho hc

/-- The same for a check given as the Boolean that must hold. -/
theorem check_agree (h : s.dataSize = s'.dataSize) {c c' : Bool} (hc : c = c') (k : ErrKind) {o o' : Out}
    (ho : c = true → OutsAgree s.doutMax o o') :
    OutsAgree s.doutMax (if !c then raise k s else o) (if !c' then raise k s' else o') :=
  raise_if_agree h (by rw [hc]) k fun hn => ho (by simpa using hn)

end

/-! ## Each command operation -/

section
variable {bs : List Buf} {s s' : State}

/-- ECB does not look at the IV (R151 check 2). -/
theorem modeBlocks_ecb (d : Dir) (alg : Alg) (key iv iv' : Bytes) (xs : List Bytes) :
    modeBlocks .ecb d alg key iv xs = modeBlocks .ecb d alg key iv' xs := by cases d <;> rfl

theorem cipher_agree (h : SameOn bs s s') (alg : Alg) (m : Mode) (d : Dir) (hk : .key0 ∈ bs)
    (hi : m = .ecb ∨ .iv ∈ bs) (hx : .din ∈ bs) : OutsAgree s.doutMax (cipher alg m d s) (cipher alg m d s') := by
  have hiv : s.ivOk m alg = s'.ivOk m alg := by
    rcases hi with rfl | hi
    · rfl
    · rw [State.ivOk, State.ivOk, h.len _ hi]
  refine check_agree h.dataSize (h.key0Ok hk alg) _ fun key0 => check_agree h.dataSize hiv _ fun iv =>
    check_agree h.dataSize (h.dinWhole hx alg) _ fun din => done_agree h.dataSize ?_
  rw [h.key0_of_ok hk key0, h.dinBlocks_of_whole hx din]
  rcases (ivOk_iff s m alg).mp iv with rfl | hl
  · rw [modeBlocks_ecb]
  · rcases hi with rfl | hi
    · rw [modeBlocks_ecb]
    · rw [h.operand hi (hl.trans_le alg.block_le)]

theorem macCbc_agree (h : SameOn [.key0, .iv, .din] s s') (alg : Alg) :
    OutsAgree s.doutMax (macCbc alg s) (macCbc alg s') := by
  refine check_agree h.dataSize (h.key0Ok (by decide) alg) _ fun key0 =>
    check_agree h.dataSize (by rw [h.len .iv (by decide)]) _ fun iv =>
    check_agree h.dataSize (by rw [h.dinWhole (by decide), h.len .din (by decide)]) _ fun din =>
    done_agree h.dataSize ?_
  have hl : s.len .iv ≤ 16 := (beq_iff_eq.mp iv).trans_le alg.block_le
  rw [h.key0_of_ok (by decide) key0, h.operand (b := .iv) (by decide) hl,
    h.dinBlocks_of_whole (by decide) (Bool.and_eq_true_iff.mp din).1]

theorem macRetail_agree (h : SameOn [.key0, .iv, .din] s s') :
    OutsAgree s.doutMax (execMacRetail s) (execMacRetail s') := by
  refine check_agree h.dataSize (h.key16 (by decide)) _ fun key0 =>
    check_agree h.dataSize (by rw [h.len .iv (by decide)]) _ fun iv =>
    check_agree h.dataSize (h.dinFits (by decide)) _ fun din => done_agree h.dataSize ?_
  have hl : s.len .iv = 0 ∨ s.len .iv = 8 := by simpa using iv
  have hiv : s.operand .iv = s'.operand .iv := h.operand (by decide) (show s.len .iv ≤ 16 by omega)
  rw [h.key0_of_key16 (by decide) key0, h.din_of_fits (by decide) din, State.retailIv, State.retailIv, hiv,
    h.len .iv (by decide)]

theorem macCmac_agree (h : SameOn [.key0, .din] s s') : OutsAgree s.doutMax (execMacCmac s) (execMacCmac s') := by
  refine check_agree h.dataSize (h.key0Ok (by decide) .aes) _ fun key0 =>
    check_agree h.dataSize (h.dinFits (by decide)) _ fun din => done_agree h.dataSize ?_
  rw [h.key0_of_ok (by decide) key0, h.din_of_fits (by decide) din]

theorem cmacSubkeys_agree (h : SameOn [.key0] s s') :
    OutsAgree s.doutMax (execCmacSubkeys s) (execCmacSubkeys s') := by
  refine check_agree h.dataSize (h.key0Ok (by decide) .aes) _ fun key0 => done_agree h.dataSize ?_
  rw [h.key0_of_ok (by decide) key0]

theorem kdUdk_agree (h : SameOn [.key0, .pan, .psn] s s') : OutsAgree s.doutMax (execKdUdk s) (execKdUdk s') := by
  refine check_agree h.dataSize (h.key16 (by decide)) _ fun key0 =>
    check_agree h.dataSize (h.cardOk (by decide) (by decide)) _ fun card => done_agree h.dataSize ?_
  obtain ⟨pan, psn⟩ := Bool.and_eq_true_iff.mp card
  rw [h.key0_of_key16 (by decide) key0, h.digits_of_ok (by decide) pan, h.digits_of_ok (by decide) psn]

theorem sessionKeyCommand_agree (h : SameOn [.key0] s s') (hatc : s.atc = s'.atc) (m : Method) :
    OutsAgree s.doutMax (sessionKeyCommand m s) (sessionKeyCommand m s') := by
  refine check_agree h.dataSize (h.key16 (by decide)) _ fun key0 => done_agree h.dataSize ?_
  rw [h.key0_of_key16 (by decide) key0, hatc]

theorem dukptIpek_agree (h : SameOn [.key0, .ksn] s s') : OutsAgree s.doutMax (execDukptIpek s) (execDukptIpek s') := by
  refine check_agree h.dataSize (h.key16 (by decide)) _ fun key0 =>
    check_agree h.dataSize (h.ksn10 (by decide)) _ fun ksn => done_agree h.dataSize ?_
  rw [h.key0_of_key16 (by decide) key0, h.ksn_of_ksn10 (by decide) ksn]

theorem dukptKeyset_agree (h : SameOn [.key0, .ksn] s s') :
    OutsAgree s.doutMax (execDukptKeyset s) (execDukptKeyset s') := by
  refine check_agree h.dataSize (h.key16 (by decide)) _ fun key0 =>
    check_agree h.dataSize (h.ksn10 (by decide)) _ fun ksn => done_agree h.dataSize ?_
  rw [h.key0_of_key16 (by decide) key0, h.ksn_of_ksn10 (by decide) ksn]

theorem ksnInc_agree (h : SameOn [.ksn] s s') : OutsAgree s.doutMax (execKsnInc s) (execKsnInc s') := by
  refine check_agree h.dataSize (h.ksn10 (by decide)) _ fun ksn => ?_
  rw [h.ksn_of_ksn10 (by decide) ksn]
  exact raise_if_agree h.dataSize Iff.rfl _ fun _ => done_agree h.dataSize rfl

/-- The session key and the MAC input of AC.GEN and AC.VERIFY behind their checks (R232). -/
theorem acOperands_congr (h : SameOn [.key0, .pan, .psn, .un, .din] s s') (hatc : s.atc = s'.atc)
    (key0 : s.key16 = true) (card : s.cardOk = true) (un : decide (s.len .un ≤ 8) = true) (din : s.dinFits = true)
    (m : Method) :
    s.acSessionKey m = s'.acSessionKey m ∧ s.acMacInput = s'.acMacInput := by
  obtain ⟨pan, psn⟩ := Bool.and_eq_true_iff.mp card
  constructor
  · rw [State.acSessionKey, State.acSessionKey, h.key0_of_key16 (by decide) key0,
      h.digits_of_ok (by decide) pan, h.digits_of_ok (by decide) psn, hatc]
  · rw [State.acMacInput, State.acMacInput, h.din_of_fits (by decide) din,
      h.operand (b := .un) (by decide) (of_decide_eq_true un), hatc]

theorem acGen_agree (h : SameOn [.key0, .pan, .psn, .un, .din] s s') (hatc : s.atc = s'.atc) (ty : CType) (m : Method) :
    OutsAgree s.doutMax (acGen ty m s) (acGen ty m s') := by
  refine check_agree h.dataSize (h.key16 (by decide)) _ fun key0 =>
    check_agree h.dataSize (h.cardOk (by decide) (by decide)) _ fun card =>
    check_agree h.dataSize (by rw [h.len .un (by decide)]) _ fun un =>
    check_agree h.dataSize (h.dinFits (by decide)) _ fun din => done_agree h.dataSize ?_
  obtain ⟨hsk, hin⟩ := acOperands_congr h hatc key0 card un din m
  rw [State.cryptogram, State.cryptogram, hsk, hin]

theorem acVerify_agree (h : SameOn [.key0, .aux0, .pan, .psn, .un, .din] s s') (hatc : s.atc = s'.atc) (m : Method) :
    OutsAgree s.doutMax (acVerify m s) (acVerify m s') := by
  refine check_agree h.dataSize (h.key16 (by decide)) _ fun key0 =>
    check_agree h.dataSize (by rw [h.len .aux0 (by decide)]) _ fun aux0 =>
    check_agree h.dataSize (h.cardOk (by decide) (by decide)) _ fun card =>
    check_agree h.dataSize (by rw [h.len .un (by decide)]) _ fun un =>
    check_agree h.dataSize (h.dinFits (by decide)) _ fun din => ?_
  obtain ⟨hsk, hin⟩ := acOperands_congr (h.mono (by decide)) hatc key0 card un din m
  rw [State.cryptogram, State.cryptogram, hsk, hin, h.aux0_of_len (by decide) aux0]
  exact doneVfail_agree h.dataSize _ _

theorem arpcM1_agree (h : SameOn [.key0, .aux0, .aux1] s s') : OutsAgree s.doutMax (execArpcM1 s) (execArpcM1 s') := by
  refine check_agree h.dataSize (h.key16 (by decide)) _ fun key0 =>
    check_agree h.dataSize (by rw [h.len .aux0 (by decide), h.len .aux1 (by decide)]) _ fun aux => done_agree h.dataSize ?_
  obtain ⟨aux0, aux1⟩ := Bool.and_eq_true_iff.mp aux
  rw [h.key0_of_key16 (by decide) key0, h.aux0_of_len (by decide) aux0,
    h.operand (b := .aux1) (by decide) (of_decide_eq_true aux1)]

theorem arpcM2_agree (h : SameOn [.key0, .aux0, .aux1, .aux2] s s') :
    OutsAgree s.doutMax (execArpcM2 s) (execArpcM2 s') := by
  refine check_agree h.dataSize (h.key16 (by decide)) _ fun key0 =>
    check_agree h.dataSize (by rw [h.len .aux0 (by decide), h.len .aux1 (by decide), h.len .aux2 (by decide)]) _ fun aux =>
    done_agree h.dataSize ?_
  obtain ⟨aux01, aux2⟩ := Bool.and_eq_true_iff.mp aux
  obtain ⟨aux0, aux1⟩ := Bool.and_eq_true_iff.mp aux01
  rw [h.key0_of_key16 (by decide) key0, h.aux0_of_len (by decide) aux0,
    h.operand (b := .aux1) (by decide) (of_decide_eq_true aux1),
    h.operand (b := .aux2) (by decide) (of_decide_eq_true aux2)]

theorem pinCreate_agree (h : SameOn bs s s') (f : PinFormat) (hpin : .pin ∈ bs) (hpan : f.usesPan = true → .pan ∈ bs)
    {padding padding' : List Nibble} (hpad : padding = padding') (n n' : Nat) :
    OutsAgree s.doutMax (pinCreate f padding n s) (pinCreate f padding' n' s') := by
  have hlen : s.pinLenOk = s'.pinLenOk := by rw [State.pinLenOk, State.pinLenOk, h.len _ hpin]
  refine check_agree h.dataSize hlen _ fun len => ?_
  have hop : s.operand .pin = s'.operand .pin :=
    h.operand hpin (((pinLenOk_iff s).mp len).2.trans (show 12 ≤ 16 by decide))
  refine check_agree h.dataSize (by rw [State.pinDigitsOk, State.pinDigitsOk, hop]) _ fun _ =>
    check_agree h.dataSize (h.panOk hpan) _ fun pan =>
    done_agree (s := s.afterDraws n) (s' := s'.afterDraws n') h.dataSize ?_
  rw [hop, hpad, h.maskPan_of_ok hpan pan]

theorem SameOn.padCount (h : SameOn bs s s') (hpin : .pin ∈ bs) : s.padCount = s'.padCount := by
  rw [State.padCount, State.padCount, h.len _ hpin]

/-- The random padding of ISO-1 and ISO-3: one draw for each padding nibble (R257, R259). -/
theorem SameOn.randomPadding (h : SameOn bs s s') (hpin : .pin ∈ bs)
    (hr : ∀ k : Nat, k < 14 - s.len .pin → s.rngAt k = s'.rngAt k) : s.drawn s.padCount = s'.drawn s'.padCount := by
  rw [← h.padCount hpin]
  exact drawn_congr hr

theorem pinExtract_agree (h : SameOn bs s s') (f : PinFormat) (haux : .aux0 ∈ bs)
    (hpan : f.usesPan = true → .pan ∈ bs) : OutsAgree s.doutMax (pinExtract f s) (pinExtract f s') := by
  refine check_agree h.dataSize (by rw [h.len _ haux]) _ fun aux0 =>
    check_agree h.dataSize (h.panOk hpan) _ fun pan => complete_agree h.dataSize ?_
  rw [h.aux0_of_len haux aux0, h.extractPin_of_ok hpan pan]

theorem pinDecrypt_agree (h : SameOn bs s s') (f : PinFormat) (hk : .key0 ∈ bs) (haux : .aux0 ∈ bs)
    (hpan : f.usesPan = true → .pan ∈ bs) : OutsAgree s.doutMax (pinDecrypt f s) (pinDecrypt f s') := by
  refine check_agree h.dataSize (h.key0Ok hk .des) _ fun key0 =>
    check_agree h.dataSize (by rw [h.len _ haux]) _ fun aux0 =>
    check_agree h.dataSize (h.panOk hpan) _ fun pan => complete_agree h.dataSize ?_
  rw [h.key0_of_ok hk key0, h.aux0_of_len haux aux0, h.extractPin_of_ok hpan pan]

theorem pinTranslate_agree (h : SameOn [.key0, .key1, .aux0] s s') :
    OutsAgree s.doutMax (execPinTranslate s) (execPinTranslate s') := by
  refine check_agree h.dataSize (h.key0Ok (by decide) .des) _ fun key0 =>
    check_agree h.dataSize (h.key1Ok (by decide)) _ fun key1 =>
    check_agree h.dataSize (by rw [h.len .aux0 (by decide)]) _ fun aux0 => done_agree h.dataSize ?_
  rw [h.key0_of_ok (by decide) key0, h.key1_of_ok (by decide) key1, h.aux0_of_len (by decide) aux0]

theorem keyGen_agree (h : SameOn bs s s') (alg : Alg) (arg : Nat)
    (hr : ∀ k : Nat, k < 8 * arg → s.rngAt k = s'.rngAt k) :
    OutsAgree s.doutMax (keyGen alg arg s) (keyGen alg arg s') := by
  refine check_agree h.dataSize rfl _ fun _ =>
    done_agree (s := s.afterDraws (8 * arg)) (s' := s'.afterDraws (8 * arg)) h.dataSize ?_
  rw [drawn_congr hr]

theorem keySplit_agree (h : SameOn [.key0] s s') (alg : Alg) (n : Nat)
    (hr : ∀ k : Nat, k < (n - 1) * s.len .key0 → s.rngAt k = s'.rngAt k) :
    OutsAgree s.doutMax (keySplit alg n s) (keySplit alg n s') := by
  have hn : s.splitDraws n = s'.splitDraws n := by rw [State.splitDraws, State.splitDraws, h.len .key0 (by decide)]
  refine check_agree h.dataSize (h.key0Ok (by decide) alg) _ fun key0 => raise_if_agree h.dataSize Iff.rfl _ fun _ =>
    done_agree (s := s.afterDraws (s.splitDraws n)) (s' := s'.afterDraws (s'.splitDraws n)) h.dataSize ?_
  rw [h.key0_of_ok (by decide) key0, ← hn, drawn_congr (n := s.splitDraws n) hr]

theorem keyCombine_agree (h : SameOn [.din] s s') (alg : Alg) (n : Nat) :
    OutsAgree s.doutMax (keyCombine alg n s) (keyCombine alg n s') := by
  refine raise_if_agree h.dataSize Iff.rfl _ fun _ => check_agree h.dataSize (h.dinFits (by decide)) _ fun din => ?_
  rw [h.din_of_fits (by decide) din]
  cases parseRecords n (s'.operand .din) with
  | none => exact raise_agree h.dataSize _
  | some vs => exact complete_agree h.dataSize rfl

theorem keyKcv_agree (h : SameOn [.key0] s s') (alg : Alg) : OutsAgree s.doutMax (keyKcv alg s) (keyKcv alg s') := by
  refine check_agree h.dataSize (h.key0Ok (by decide) alg) _ fun key0 => done_agree h.dataSize ?_
  rw [h.key0_of_ok (by decide) key0]

theorem parCheck_agree (h : SameOn [.din] s s') : OutsAgree s.doutMax (execParCheck s) (execParCheck s') := by
  refine check_agree h.dataSize (h.dinFits (by decide)) _ fun din => ?_
  rw [h.din_of_fits (by decide) din]
  exact doneParok_agree h.dataSize _ _

theorem parFix_agree (h : SameOn [.din] s s') : OutsAgree s.doutMax (execParFix s) (execParFix s') := by
  refine check_agree h.dataSize (h.dinFits (by decide)) _ fun din => done_agree h.dataSize ?_
  rw [h.din_of_fits (by decide) din]

end

/-! ## Every command -/

/-- A command's result is decided by the buffers `readsOf` names, by ATC for the commands of `atcReaders`, and by the
`drawCount` bytes it draws (R15, R39, R333). -/
theorem exec_agree (i : Instr) {s s' : State} (h : SameOn (readsOf i) s s') (hatc : i ∈ atcReaders → s.atc = s'.atc)
    (hr : ∀ k : Nat, k < drawCount i s → s.rngAt k = s'.rngAt k) : OutsAgree s.doutMax (exec i s) (exec i s') := by
  cases i with
  | desEcbEnc | desEcbDec | desCbcEnc | desCbcDec | desCfbEnc | desCfbDec | desOfbEnc | desOfbDec | desCtrEnc
  | desCtrDec | aesEcbEnc | aesEcbDec | aesCbcEnc | aesCbcDec | aesCfbEnc | aesCfbDec | aesOfbEnc | aesOfbDec
  | aesCtrEnc | aesCtrDec => exact cipher_agree h _ _ _ (by decide) (by decide) (by decide)
  | macCbcDes | macCbcAes => exact macCbc_agree h _
  | macRetail => exact macRetail_agree h
  | macCmac => exact macCmac_agree h
  | cmacSubkeys => exact cmacSubkeys_agree h
  | kdUdk => exact kdUdk_agree h
  | kdSkCommon | kdSkVisa | kdSkMc => exact sessionKeyCommand_agree h (hatc (by decide)) _
  | dukptIpek => exact dukptIpek_agree h
  | dukptKeyset => exact dukptKeyset_agree h
  | ksnInc => exact ksnInc_agree h
  | acGenArqcCommon | acGenArqcVisa | acGenArqcMc | acGenTcCommon | acGenTcVisa | acGenTcMc | acGenAacCommon
  | acGenAacVisa | acGenAacMc => exact acGen_agree h (hatc (by decide)) _ _
  | acVerifyCommon | acVerifyVisa | acVerifyMc => exact acVerify_agree h (hatc (by decide)) _
  | arpcM1 => exact arpcM1_agree h
  | arpcM2 => exact arpcM2_agree h
  | pinCreateIso0 | pinCreateIso2 | pinCreateIso4 =>
    exact pinCreate_agree h _ (by decide) (by decide) (by rw [h.padCount (by decide)]) _ _
  | pinCreateIso1 | pinCreateIso3 =>
    exact pinCreate_agree h _ (by decide) (by decide) (by rw [h.randomPadding (by decide) hr]) _ _
  | pinExtractIso0 | pinExtractIso1 | pinExtractIso2 | pinExtractIso3 | pinExtractIso4 =>
    exact pinExtract_agree h _ (by decide) (by decide)
  | pinDecryptIso0 | pinDecryptIso1 | pinDecryptIso2 | pinDecryptIso3 | pinDecryptIso4 =>
    exact pinDecrypt_agree h _ (by decide) (by decide) (by decide)
  | pinTranslate => exact pinTranslate_agree h
  | keyGenDes arg | keyGenAes arg => exact keyGen_agree h _ arg hr
  | keySplitDes n | keySplitAes n => exact keySplit_agree h _ n hr
  | keyCombineDes n | keyCombineAes n => exact keyCombine_agree h _ n
  | keyKcvDes | keyKcvAes => exact keyKcv_agree h _
  | parCheck => exact parCheck_agree h
  | parFix => exact parFix_agree h

/-- Settles O23: each command checks a length before it uses the bytes under it, so states that agree on the bytes that
exist pass the same checks and complete with the same value. -/
theorem onlyTheOperandsReadMatter : Obligations.OnlyTheOperandsReadMatter := by
  intro i s s' t t' hread hsize hatc hr ht ht'
  have hsame : SameOn (readsOf i) s s' := ⟨hsize, fun b hb => (hread b hb).1, fun b hb => (hread b hb).2⟩
  obtain ⟨st, err, vfail, parok, doutLen, dout⟩ := exec_agree i hsame hatc hr t t' ht ht'
  exact ⟨st, err, vfail, parok, doutLen, dout⟩

end Sys2Proof.Machine
end

section
/-! PROOFS. What a command's answer can be, once for all 72: `done(v)` after the draws its rule counts, with an output
that fits DOUT, or `raise` (R334, R335, R339). First the lengths of the outputs, then each shared command operation. -/

namespace Sys2Proof.Machine

/-! ## Lengths of outputs -/

/-- DOUT_MAX is DATA_MAX + 64, at least 448 (R9, R36). -/
theorem State.doutMax_eq (s : State) : s.doutMax = s.dataMax + 64 := rfl

theorem State.doutMax_ge (s : State) : 448 ≤ s.doutMax := by
  have := s.dataMax_range
  rw [s.doutMax_eq]
  omega

theorem State.le_doutMax (s : State) {n : Nat} (h : n ≤ 448) : n ≤ s.doutMax := h.trans s.doutMax_ge

/-- `E(alg, K, x)` of a block is a block (R121). -/
theorem blockE_length {alg : Alg} {key x : Bytes} (hk : LegalKey alg key.length) (hx : x.length = alg.block) :
    (blockE alg key x).length = alg.block := by
  cases alg with
  | des => simp only [blockE, Alg.block]; split <;> simp
  | aes => exact aesE_length key x (by simpa [LegalKey] using hk) hx

/-- `D(alg, K, x)` of a block is a block (R121). -/
theorem blockD_length {alg : Alg} {key x : Bytes} (hk : LegalKey alg key.length) (hx : x.length = alg.block) :
    (blockD alg key x).length = alg.block := by
  cases alg with
  | des => simp only [blockD, Alg.block]; split <;> simp
  | aes => exact aesD_length key x (by simpa [LegalKey] using hk) hx

theorem kcv_length_le (alg : Alg) (key : Bytes) : (kcv alg key).length ≤ 3 := by
  simp only [kcv, slice, List.length_take]
  omega

theorem flatten_length_le (b : Nat) (l : List Bytes) (h : ∀ x ∈ l, x.length ≤ b) : l.flatten.length ≤ b * l.length := by
  rw [List.length_flatten, Nat.mul_comm, ← List.length_map (f := List.length)]
  exact List.sum_le_card_nsmul _ _ (by simpa using h)

section
variable {e : Bytes → Bytes} {n : Nat} {xs : List Bytes} (hx : ∀ x ∈ xs, x.length = n)
include hx

/-- Every output block of CBC encryption is a value of `E` (R154). -/
theorem cbcEnc_mem_length (he : ∀ x : Bytes, x.length = n → (e x).length = n) {p : Bytes} (hp : p.length = n) :
    ∀ y ∈ cbcEnc e p xs, y.length = n := by
  induction xs generalizing p with
  | nil => simp [cbcEnc]
  | cons x xs ih =>
    obtain ⟨hx, hxs⟩ := List.forall_mem_cons.mp hx
    have hy : (e (xorBytes x p)).length = n := he _ (by simp [hx, hp])
    exact List.forall_mem_cons.mpr ⟨hy, ih hxs hy⟩

/-- An output block of the other chained modes is an XOR with a block of the data, or with one `D` gives (R155 to R162). -/
theorem cbcDec_mem_length (he : ∀ x : Bytes, x.length = n → (e x).length = n) (p : Bytes) :
    ∀ y ∈ cbcDec e p xs, y.length ≤ n := by
  induction xs generalizing p with
  | nil => simp [cbcDec]
  | cons x xs ih =>
    obtain ⟨hx, hxs⟩ := List.forall_mem_cons.mp hx
    exact List.forall_mem_cons.mpr ⟨by simp [he x hx], ih hxs x⟩

theorem cfbEnc_mem_length (p : Bytes) : ∀ y ∈ cfbEnc e p xs, y.length ≤ n := by
  induction xs generalizing p with
  | nil => simp [cfbEnc]
  | cons x xs ih =>
    obtain ⟨hx, hxs⟩ := List.forall_mem_cons.mp hx
    exact List.forall_mem_cons.mpr ⟨by simp [hx], ih hxs _⟩

theorem cfbDec_mem_length (p : Bytes) : ∀ y ∈ cfbDec e p xs, y.length ≤ n := by
  induction xs generalizing p with
  | nil => simp [cfbDec]
  | cons x xs ih =>
    obtain ⟨hx, hxs⟩ := List.forall_mem_cons.mp hx
    exact List.forall_mem_cons.mpr ⟨by simp [hx], ih hxs x⟩

theorem ofb_mem_length (o : Bytes) : ∀ y ∈ ofb e o xs, y.length ≤ n := by
  induction xs generalizing o with
  | nil => simp [ofb]
  | cons x xs ih =>
    obtain ⟨hx, hxs⟩ := List.forall_mem_cons.mp hx
    exact List.forall_mem_cons.mpr ⟨by simp [hx], ih hxs _⟩

theorem ctr_mem_length (c : Bytes) : ∀ y ∈ ctr e c xs, y.length ≤ n := by
  induction xs generalizing c with
  | nil => simp [ctr]
  | cons x xs ih =>
    obtain ⟨hx, hxs⟩ := List.forall_mem_cons.mp hx
    exact List.forall_mem_cons.mpr ⟨by simp [hx], ih hxs _⟩

/-- A chain that starts from a block ends in a block (R181, R187). -/
theorem chain_length (he : ∀ x : Bytes, x.length = n → (e x).length = n) {h : Bytes} (hh : h.length = n) :
    (chain e h xs).length = n := by
  induction xs generalizing h with
  | nil => exact hh
  | cons x xs ih =>
    obtain ⟨hx, hxs⟩ := List.forall_mem_cons.mp hx
    exact ih hxs (he _ (by simp [hx, hh]))

end

/-- No mode gives a block longer than a block of its family (R152 to R162). -/
theorem modeBlocks_mem_length {alg : Alg} {key iv : Bytes} {xs : List Bytes} {m : Mode} (d : Dir)
    (hk : LegalKey alg key.length) (hiv : m = .ecb ∨ iv.length = alg.block) (hx : ∀ x ∈ xs, x.length = alg.block) :
    ∀ y ∈ modeBlocks m d alg key iv xs, y.length ≤ alg.block := by
  have hE : ∀ x : Bytes, x.length = alg.block → (blockE alg key x).length = alg.block := fun _ => blockE_length hk
  have hD : ∀ x : Bytes, x.length = alg.block → (blockD alg key x).length = alg.block := fun _ => blockD_length hk
  cases m with
  | ecb =>
    cases d with
    | enc => exact List.forall_mem_map.mpr fun x h => (hE x (hx x h)).le
    | dec => exact List.forall_mem_map.mpr fun x h => (hD x (hx x h)).le
  | cbc =>
    cases d with
    | enc => exact fun y hy => (cbcEnc_mem_length hx hE (hiv.resolve_left (by decide)) y hy).le
    | dec => exact cbcDec_mem_length hx hD iv
  | cfb =>
    cases d with
    | enc => exact cfbEnc_mem_length hx iv
    | dec => exact cfbDec_mem_length hx iv
  | ofb => cases d <;> exact ofb_mem_length hx iv
  | ctr => cases d <;> exact ctr_mem_length hx iv

@[simp] theorem dbl_length (x : Bytes) : (dbl x).length = 16 := by simp [dbl]
@[simp] theorem rmac_length (key iv d : Bytes) : (rmac key iv d).length = 8 := by simp [rmac]
@[simp] theorem udk_length (imk pan psn : Bytes) : (udk imk pan psn).length = 16 := by simp [udk]
@[simp] theorem sessionKeyFor_length (m : Method) (u : Bytes) (atc : BitVec 16) :
    (sessionKeyFor m u atc).length = 16 := by simp [sessionKeyFor, sessionKeyOf]

/-- A CMAC is one block (R187). -/
theorem cmac_length {key : Bytes} (hk : LegalKey .aes key.length) (d : Bytes) : (cmac key d).length = 16 := by
  have hn : 16 * (max 1 ((d.length + 15) / 16) - 1) ≤ d.length := by omega
  have hlast : (cmacLast (subkeys key).1 (subkeys key).2
      (d.drop (16 * (max 1 ((d.length + 15) / 16) - 1)))).length = 16 := by
    have hd : d.length - 16 * (max 1 ((d.length + 15) / 16) - 1) ≤ 16 := by omega
    simp only [cmacLast, subkeys, List.length_drop]
    split <;> simp <;> omega
  refine chain_length (fun x hx => ?_) (fun x hx => blockE_length hk hx) (zeros_length 16)
  rcases List.mem_append.mp hx with hx | hx
  · exact blocksOf_mem_length _ _ _ hn x hx
  · exact List.mem_singleton.mp hx ▸ hlast

@[simp] theorem ipek_length (bdk ksn : Bytes) : (ipek bdk ksn).length = 16 := by simp [ipek]

/-- A key of the scan has 16 bytes, as its successor has (R210, R211). -/
theorem nrkg_length {key : Bytes} (h : key.length = 16) (r : Bytes) : (nrkg key r).length = 16 := by
  simp [nrkg, dukptHalf, slice, keyRegisterMask, h]

theorem ctkScan_length (c n r : Nat) {key : Bytes} (h : key.length = 16) : (ctkScan c n r key).length = 16 := by
  induction n generalizing r key with
  | zero => exact h
  | succ n ih =>
    rw [ctkScan]
    split
    · exact ih _ (nrkg_length h _)
    · exact ih _ h

/-- A DukptKeySet record has 90 bytes (R214). -/
theorem keySet_length (bdk : Bytes) {ksn : Bytes} (h : ksn.length = 10) : (keySet bdk ksn).length = 90 := by
  have hctk : (ctk bdk ksn).length = 16 := ctkScan_length _ _ _ (ipek_length _ _)
  simp [keySet, pinVariant, macVariant, dataVariant, pinMask, macMask, hctk, h]

theorem ksnWithCounter_length_le (ksn : Bytes) (c : Nat) : (ksnWithCounter ksn c).length ≤ 10 := by
  simp only [ksnWithCounter, slice, List.length_append, List.length_take, List.length_cons, List.length_nil]
  omega

theorem xorFold_length_le (cs : List Bytes) (k : Bytes) : (cs.foldl xorBytes k).length ≤ k.length := by
  induction cs generalizing k with
  | nil => exact Nat.le_refl _
  | cons c cs ih => exact (ih _).trans (by simp)

theorem componentRecords_length_le (alg : Alg) (b i : Nat) (cs : List Bytes) (h : ∀ c ∈ cs, c.length ≤ b) :
    (componentRecords alg i cs).length ≤ (b + 4) * cs.length := by
  induction cs generalizing i with
  | nil => simp [componentRecords]
  | cons c cs ih =>
    obtain ⟨hc, hcs⟩ := List.forall_mem_cons.mp h
    have hk := kcv_length_le alg c
    have hr := ih (i + 1) hcs
    simp only [componentRecords, List.length_append, List.length_cons, List.length_nil, Nat.mul_add]
    omega

theorem blocksOf_mem_length_le (b n : Nat) (d : Bytes) : ∀ x ∈ blocksOf b n d, x.length ≤ b := by
  induction n generalizing d with
  | zero => simp [blocksOf]
  | succ n ih => exact List.forall_mem_cons.mpr ⟨List.length_take_le _ _, ih _⟩

/-- A KeyShare of at most 9 components fits the smallest DOUT (R286, R288). -/
theorem keyShare_length_le (alg : Alg) (key random : Bytes) (n : Nat) (hk : key.length ≤ 32) (hn : 1 ≤ n ∧ n ≤ 9) :
    (keyShare alg key (splitKey key n random)).length ≤ 448 := by
  have hlen : (splitKey key n random).length = n := by simp [splitKey]; omega
  have hmem : ∀ c ∈ splitKey key n random, c.length ≤ 32 := by
    refine List.forall_mem_append.mpr ⟨List.forall_mem_map.mpr fun b hb => ?_, fun c hc => ?_⟩
    · simpa using (blocksOf_mem_length_le _ _ _ b hb).trans hk
    · rw [List.mem_singleton.mp hc]
      exact (xorFold_length_le _ _).trans hk
  have hrec := componentRecords_length_le alg 32 1 _ hmem
  have hkcv := kcv_length_le alg key
  rw [hlen] at hrec
  simp only [keyShare, List.length_append, List.length_cons, List.length_nil]
  omega

theorem maskPan_length_le (f : PinFormat) (block pan : Bytes) : (maskPan f block pan).length ≤ block.length := by
  unfold maskPan
  split <;> simp

theorem pack_length_le (d : List Nibble) : (pack d).length ≤ d.length := by
  induction d using pack.induct with
  | case1 h l r ih => simp only [pack, List.length_cons]; omega
  | case2 d h => simp [pack]

theorem clearBlock_length_le (f : PinFormat) (pin : Bytes) (padding : List Nibble) :
    (clearBlock f pin padding).length ≤ 2 + pin.length + padding.length :=
  (pack_length_le _).trans (by simp; omega)

/-- An extracted PIN has at most 12 digits (R262). -/
theorem extractPin_length_le {f : PinFormat} {block pan v : Bytes} (h : extractPin f block pan = .ok v) :
    v.length ≤ 12 := by
  simp only [extractPin] at h
  split at h
  · cases h
  · rename_i hl
    cases h
    simp only [List.length_map, List.length_take]
    omega

@[simp] theorem testByte_length (b : Bool) : (testByte b).length = 1 := by cases b <;> rfl

/-- The combined key with its check value (R290). -/
theorem combineComponents_length_le {alg : Alg} {vs : List Bytes} {v : Bytes} (h : combineComponents alg vs = .ok v) :
    v.length ≤ 35 := by
  obtain ⟨mismatch, illegal, ok⟩ := combineComponents_spec alg vs
  by_cases hall : ∀ v ∈ vs, v.length = (vs.headD []).length
  · by_cases hkey : LegalKey alg (vs.headD []).length
    · cases (ok hall hkey).symm.trans h
      have hx : (xorAll vs).length ≤ (vs.headD []).length := by
        cases vs with
        | nil => exact Nat.le_refl _
        | cons c cs => exact xorFold_length_le cs c
      have hlen := hkey.le_32
      have hk := kcv_length_le alg (xorAll vs)
      rw [List.length_append]
      omega
    · cases (illegal hall hkey).symm.trans h
  · cases (mismatch hall).symm.trans h

/-! ## The answers of a command -/

/-- The three commands that write VFAIL (R25, R236). -/
def IsVerify (i : Instr) : Prop := i = .acVerifyCommon ∨ i = .acVerifyVisa ∨ i = .acVerifyMc

/-- What command `i` can answer at `s`: `done(v)` after exactly the draws of its rule, with an output that fits DOUT and
the flags it may write, or `raise`. -/
inductive Completes (i : Instr) (s : State) : Out → Prop where
  | done {vf pk : Bool} {v : Bytes} (fits : v.length ≤ s.doutMax) (verify : vf = true → IsVerify i)
      (check : pk = true → i = .parCheck) :
      Completes i s (.next ((s.afterDraws (drawCount i s)).doneWith vf pk v))
  | raised (k : ErrKind) : Completes i s (.next (s.raised k))

section
variable {i : Instr} {s : State} {v : Bytes} {o : Out}

/-- One check of a command. -/
theorem completes_if {p : Prop} [Decidable p] {k : ErrKind} (ho : ¬ p → Completes i s o) :
    Completes i s (if p then raise k s else o) := by
  by_cases hp : p
  · rw [if_pos hp]
    exact .raised k
  · rw [if_neg hp]
    exact ho hp

/-- The same for a check given as the Boolean that must hold. -/
theorem completes_check {c : Bool} {k : ErrKind} (ho : c = true → Completes i s o) :
    Completes i s (if !c then raise k s else o) :=
  completes_if fun hn => ho (by simpa using hn)

/-- A completion after its draws. -/
theorem completes_doneWith {n : Nat} {vf pk : Bool} (hn : drawCount i s = n) (hv : v.length ≤ s.doutMax)
    (verify : vf = true → IsVerify i) (check : pk = true → i = .parCheck) :
    Completes i s (.next ((s.afterDraws n).doneWith vf pk v)) := by
  subst hn
  exact .done hv verify check

theorem completes_done_drawn {n : Nat} (hn : drawCount i s = n) (hv : v.length ≤ s.doutMax) :
    Completes i s (done v (s.afterDraws n)) :=
  completes_doneWith hn hv (by simp) (by simp)

theorem completes_done (hn : drawCount i s = 0) (hv : v.length ≤ s.doutMax) : Completes i s (done v s) :=
  completes_done_drawn (n := 0) hn hv

theorem completes_doneVfail (hn : drawCount i s = 0) (hi : IsVerify i) (vf : Bool) (hv : v.length ≤ s.doutMax) :
    Completes i s (doneVfail vf v s) :=
  completes_doneWith (n := 0) hn hv (fun _ => hi) (by simp)

theorem completes_doneParok (hn : drawCount i s = 0) (hi : i = .parCheck) (pk : Bool) (hv : v.length ≤ s.doutMax) :
    Completes i s (doneParok pk v s) :=
  completes_doneWith (n := 0) hn hv (by simp) (fun _ => hi)

theorem completes_complete (hn : drawCount i s = 0) {r : Except ErrKind Bytes}
    (hr : ∀ v : Bytes, r = .ok v → v.length ≤ s.doutMax) : Completes i s (complete r s) := by
  cases r with
  | ok v => exact completes_done hn (hr v rfl)
  | error k => exact .raised k

end

/-! ## Each command operation -/

section
variable {i : Instr} {s : State} (hn : drawCount i s = 0)
include hn

theorem cipher_completes (alg : Alg) (m : Mode) (d : Dir) : Completes i s (cipher alg m d s) := by
  refine completes_check fun key0 => completes_check fun iv => completes_check fun din => completes_done hn ?_
  have hdata := (dinWhole_iff s alg).mp din
  obtain ⟨hblocks, hx, _⟩ := dinBlocks_spec s alg hdata
  have hy := modeBlocks_mem_length (key := s.operand .key0) (iv := s.operand .iv) d
    (by simpa using (key0Ok_iff s alg).mp key0) (by simpa [LegalIv] using (ivOk_iff s m alg).mp iv) hx
  calc _ ≤ alg.block * (modeBlocks m d alg (s.operand .key0) (s.operand .iv) (s.dinBlocks alg)).length :=
        flatten_length_le _ _ hy
    _ = alg.block * (s.len .din / alg.block) := by rw [modeBlocks_length, hblocks]
    _ ≤ s.len .din := Nat.mul_div_le _ _
    _ ≤ s.doutMax := hdata.1.trans (Nat.le_add_right _ _)

theorem macCbc_completes (alg : Alg) : Completes i s (macCbc alg s) := by
  refine completes_check fun key0 => completes_check fun iv => completes_check fun din => completes_done hn ?_
  obtain ⟨_, hx, _⟩ := dinBlocks_spec s alg ((dinWhole_iff s alg).mp (Bool.and_eq_true_iff.mp din).1)
  have hk : LegalKey alg (s.operand .key0).length := by simpa using (key0Ok_iff s alg).mp key0
  rw [chain_length hx (fun _ => blockE_length hk) (by simpa using iv)]
  exact s.le_doutMax (alg.block_le.trans (by decide))

theorem macRetail_completes : Completes i s (execMacRetail s) :=
  completes_check fun _ => completes_check fun _ => completes_check fun _ =>
    completes_done hn (s.le_doutMax (by simp))

theorem macCmac_completes : Completes i s (execMacCmac s) := by
  refine completes_check fun key0 => completes_check fun _ => completes_done hn ?_
  rw [cmac_length (by simpa using (key0Ok_iff s .aes).mp key0)]
  exact s.le_doutMax (by decide)

theorem cmacSubkeys_completes : Completes i s (execCmacSubkeys s) := by
  refine completes_check fun _ => completes_done hn ?_
  rw [List.length_append, subkeys, dbl_length, dbl_length]
  exact s.le_doutMax (by decide)

theorem kdUdk_completes : Completes i s (execKdUdk s) :=
  completes_check fun _ => completes_check fun _ =>
    completes_done hn (s.le_doutMax (by simp))

theorem sessionKeyCommand_completes (m : Method) : Completes i s (sessionKeyCommand m s) :=
  completes_check fun _ => completes_done hn (s.le_doutMax (by simp))

theorem dukptIpek_completes : Completes i s (execDukptIpek s) :=
  completes_check fun _ => completes_check fun _ =>
    completes_done hn (s.le_doutMax (by simp))

theorem dukptKeyset_completes : Completes i s (execDukptKeyset s) :=
  completes_check fun _ => completes_check fun ksn => completes_done hn
    (s.le_doutMax (by rw [keySet_length _ (by simpa using (ksn10_iff s).mp ksn)]; decide))

theorem ksnInc_completes : Completes i s (execKsnInc s) :=
  completes_check fun _ => completes_if fun _ => completes_done hn
    ((ksnWithCounter_length_le _ _).trans (s.le_doutMax (by decide)))

/-- The record of AC.GEN is 37 bytes longer than the data at most: why DOUT_MAX exceeds DATA_MAX (R36, R233). -/
theorem acGen_completes (ty : CType) (m : Method) : Completes i s (acGen ty m s) := by
  refine completes_check fun _ => completes_check fun _ => completes_check fun un => completes_check fun din =>
    completes_done hn ?_
  have hun : s.len .un ≤ 8 := of_decide_eq_true un
  have hdin := (dinFits_iff s).mp din
  have hkey : (s.acSessionKey m).length = 16 := sessionKeyFor_length _ _ _
  have hac : (s.cryptogram m).length = 8 := rmac_length _ _ _
  have hin : s.acMacInput.length = s.len .din + 2 + s.len .un := by simp [State.acMacInput, acInput, Nat.add_assoc]
  rw [s.doutMax_eq]
  simp only [acRecord, List.length_append, List.length_cons, List.length_nil, be_length, hkey, hac, hin]
  omega

theorem acVerify_completes (hi : IsVerify i) (m : Method) : Completes i s (acVerify m s) := by
  refine completes_check fun _ => completes_check fun _ => completes_check fun _ => completes_check fun _ =>
    completes_check fun _ => completes_doneVfail hn hi _ ?_
  rw [testByte_length]
  exact s.le_doutMax (by decide)

theorem arpcM1_completes : Completes i s (execArpcM1 s) :=
  completes_check fun _ => completes_check fun _ =>
    completes_done hn (s.le_doutMax (by simp))

theorem arpcM2_completes : Completes i s (execArpcM2 s) := by
  refine completes_check fun _ => completes_check fun _ => completes_done hn ?_
  rw [slice_length _ _ _ (by simp)]
  exact s.le_doutMax (by decide)

theorem pinExtract_completes (f : PinFormat) : Completes i s (pinExtract f s) :=
  completes_check fun _ => completes_check fun _ => completes_complete hn fun _ hv =>
    (extractPin_length_le hv).trans (s.le_doutMax (by decide))

theorem pinDecrypt_completes (f : PinFormat) : Completes i s (pinDecrypt f s) :=
  completes_check fun _ => completes_check fun _ => completes_check fun _ => completes_complete hn fun _ hv =>
    (extractPin_length_le hv).trans (s.le_doutMax (by decide))

theorem pinTranslate_completes : Completes i s (execPinTranslate s) := by
  refine completes_check fun key0 => completes_check fun key1 => completes_check fun aux0 => completes_done hn ?_
  have hclear : (blockD .des (s.operand .key0) (s.operand .aux0)).length = Alg.des.block :=
    blockD_length (by simpa using (key0Ok_iff s .des).mp key0) (by simpa [Alg.block] using aux0)
  rw [blockE_length (by simpa using (keyLenOk_iff .des _).mp key1) hclear]
  exact s.le_doutMax (by decide)

theorem keyCombine_completes (alg : Alg) (n : Nat) : Completes i s (keyCombine alg n s) := by
  refine completes_if fun _ => completes_check fun _ => ?_
  cases parseRecords n (s.operand .din) with
  | none => exact .raised _
  | some vs =>
    exact completes_complete hn fun v hv =>
      (combineComponents_length_le hv).trans (s.le_doutMax (by decide))

theorem keyKcv_completes (alg : Alg) : Completes i s (keyKcv alg s) :=
  completes_check fun _ => completes_done hn
    ((kcv_length_le _ _).trans (s.le_doutMax (by decide)))

theorem parCheck_completes (hi : i = .parCheck) : Completes i s (execParCheck s) := by
  refine completes_check fun _ => completes_doneParok hn hi _ ?_
  rw [testByte_length]
  exact s.le_doutMax (by decide)

theorem parFix_completes : Completes i s (execParFix s) := by
  refine completes_check fun din => completes_done hn ?_
  rw [fixParity_length, operand_length]
  exact ((dinFits_iff s).mp din).trans (Nat.le_add_right _ _)

end

section
variable {i : Instr} {s : State}

/-- PIN.CREATE draws what its padding takes, and gives one block (R250, R261). -/
theorem pinCreate_completes (f : PinFormat) {padding : List Nibble} {n : Nat} (hn : drawCount i s = n)
    (hp : padding.length = s.padCount) : Completes i s (pinCreate f padding n s) := by
  refine completes_check fun len => completes_check fun _ => completes_check fun _ => completes_done_drawn hn ?_
  obtain ⟨_, hlen⟩ := (pinLenOk_iff s).mp len
  refine s.le_doutMax ((maskPan_length_le _ _ _).trans ((clearBlock_length_le _ _ _).trans ?_))
  rw [operand_length, hp, State.padCount]
  omega

theorem keyGen_completes (alg : Alg) (arg : Nat) (hn : drawCount i s = 8 * arg) : Completes i s (keyGen alg arg s) := by
  refine completes_check fun code => completes_done_drawn hn ?_
  have hlen := ((keyLenOk_iff alg _).mp code).le_32
  refine s.le_doutMax ?_
  rw [fixParity_length, drawn_length]
  exact hlen.trans (by decide)

theorem keySplit_completes (alg : Alg) (n : Nat) (hn : drawCount i s = s.splitDraws n) :
    Completes i s (keySplit alg n s) := by
  refine completes_check fun key0 => completes_if fun count => completes_done_drawn hn ?_
  refine s.le_doutMax (keyShare_length_le alg _ _ n ?_ (by omega))
  rw [operand_length]
  exact ((key0Ok_iff s alg).mp key0).le_32

end

/-! ## Every command -/

/-- Every command, at every state, completes: none faults or is refused (R339, R344). -/
theorem exec_completes (i : Instr) (s : State) : Completes i s (exec i s) := by
  cases i with
  | desEcbEnc | desEcbDec | desCbcEnc | desCbcDec | desCfbEnc | desCfbDec | desOfbEnc | desOfbDec | desCtrEnc
  | desCtrDec | aesEcbEnc | aesEcbDec | aesCbcEnc | aesCbcDec | aesCfbEnc | aesCfbDec | aesOfbEnc | aesOfbDec
  | aesCtrEnc | aesCtrDec => exact cipher_completes rfl _ _ _
  | macCbcDes | macCbcAes => exact macCbc_completes rfl _
  | macRetail => exact macRetail_completes rfl
  | macCmac => exact macCmac_completes rfl
  | cmacSubkeys => exact cmacSubkeys_completes rfl
  | kdUdk => exact kdUdk_completes rfl
  | kdSkCommon | kdSkVisa | kdSkMc => exact sessionKeyCommand_completes rfl _
  | dukptIpek => exact dukptIpek_completes rfl
  | dukptKeyset => exact dukptKeyset_completes rfl
  | ksnInc => exact ksnInc_completes rfl
  | acGenArqcCommon | acGenArqcVisa | acGenArqcMc | acGenTcCommon | acGenTcVisa | acGenTcMc | acGenAacCommon
  | acGenAacVisa | acGenAacMc => exact acGen_completes rfl _ _
  | acVerifyCommon | acVerifyVisa | acVerifyMc => exact acVerify_completes rfl (by simp [IsVerify]) _
  | arpcM1 => exact arpcM1_completes rfl
  | arpcM2 => exact arpcM2_completes rfl
  | pinCreateIso0 | pinCreateIso1 | pinCreateIso2 | pinCreateIso3 | pinCreateIso4 =>
    exact pinCreate_completes _ rfl (by simp)
  | pinExtractIso0 | pinExtractIso1 | pinExtractIso2 | pinExtractIso3 | pinExtractIso4 =>
    exact pinExtract_completes rfl _
  | pinDecryptIso0 | pinDecryptIso1 | pinDecryptIso2 | pinDecryptIso3 | pinDecryptIso4 =>
    exact pinDecrypt_completes rfl _
  | pinTranslate => exact pinTranslate_completes rfl
  | keyGenDes arg | keyGenAes arg => exact keyGen_completes _ arg rfl
  | keySplitDes n | keySplitAes n => exact keySplit_completes _ n rfl
  | keyCombineDes n | keyCombineAes n => exact keyCombine_completes rfl _ n
  | keyKcvDes | keyKcvAes => exact keyKcv_completes rfl _
  | parCheck => exact parCheck_completes rfl rfl
  | parFix => exact parFix_completes rfl

end Sys2Proof.Machine
end

section
/-! PROOFS. What one step can do: reset, a completion, or a host step, which changes the core through one bus write (R20,
R69, R111, R370). Then the statements about CTRL, STATE, the draws and the outputs of a command. -/

namespace Sys2Proof.Machine

/-! ## Turns and steps -/

section
variable {s t u : State} {l : HostLine}

theorem coreTurn_of_test (hr : s.resetIn.headD false = false) (hc : s.coreTurn = true) : CoreTurn s :=
  ⟨hr, (coreTurn_iff s).mp hc⟩

/-- In the core's turn the step is the completion (R20). -/
theorem step_of_coreTurn (h : CoreTurn s) : step s = completionStep s.sampled := by
  obtain ⟨hr, hst, hleft, hstalled⟩ := h
  have hc : s.coreTurn = true := (coreTurn_iff s).mpr ⟨hst, hleft, hstalled⟩
  rw [step, agentStep, hr, hc]
  rfl

/-- In the host's turn the step is the line at the position counter (R110). -/
theorem step_of_hostTurn (h : HostTurn s l) : step s = hostLine l s.sampled.tick := by
  obtain ⟨hr, hc, hl⟩ := h
  rw [step, agentStep, hr, hc, hostStep, State.sampled_script, State.sampled_pos, hl]
  rfl

/-- The completion of a legal word is its command (R29). -/
theorem completionStep_ok {i : Instr} (h : decode s.cmd = .ok i) : completionStep s = exec i s := by
  simp [completionStep, h]

/-- The completion of a word of no row (R96). -/
theorem completionStep_illegal (h : decode s.cmd = .error .illegalCommand) :
    completionStep s = .next (s.raised .illegalCommand) := by
  simp [completionStep, h, raise_eq]

/-- A completion is a command's or the IllegalCommand error (R29, R96). -/
theorem completionStep_cases (s : State) :
    (∃ i, completionStep s = exec i s) ∨ completionStep s = .next (s.raised .illegalCommand) := by
  unfold completionStep
  split
  · exact .inl ⟨_, rfl⟩
  · exact .inr rfl

/-- `t` is `u` but for the host's own fields that a line writes: position, names, strings and response (R110 to R112). -/
def HostMoved (u t : State) : Prop :=
  ∃ (p : Nat) (ls : List (Nat × Word)) (ws : List Word) (bs : List (Nat × Bytes)) (r : BusResp),
    t = { u with pos := p, locals := ls, rdbWords := ws, strings := bs, resp := r }

theorem HostMoved.coreKept (h : HostMoved u t) : CoreKept u t := by
  obtain ⟨p, ls, ws, bs, r, rfl⟩ := h
  exact ⟨rfl, rfl, rfl, rfl, rfl, rfl, rfl, rfl, fun b => by cases b <;> rfl, rfl, fun _ => rfl, rfl⟩

/-- The sampling of the inputs and the count of LATENCY leave the core as it was (R370, R380). -/
theorem sampled_coreKept (s : State) : CoreKept s s.sampled :=
  ⟨rfl, rfl, rfl, rfl, rfl, rfl, rfl, rfl, fun b => by simp, rfl, fun _ => rfl, rfl⟩

theorem sampled_tick_coreKept (s : State) : CoreKept s s.sampled.tick := by
  constructor <;> simp

theorem CoreKept.trans (h : CoreKept s u) (g : CoreKept u t) : CoreKept s t where
  st := g.st.trans h.st
  vfail := g.vfail.trans h.vfail
  parok := g.parok.trans h.parok
  irqPending := g.irqPending.trans h.irqPending
  err := g.err.trans h.err
  cmd := g.cmd.trans h.cmd
  ie := g.ie.trans h.ie
  atc := g.atc.trans h.atc
  len b := (g.len b).trans (h.len b)
  doutLen := g.doutLen.trans h.doutLen
  mem a := (g.mem a).trans (h.mem a)
  dataSize := g.dataSize.trans h.dataSize

/-- What a step that answers a next state can be: the reset line, the core's completion, or a host step whose line is a
bus write or leaves the core as it was (R20, R69, R370). -/
theorem step_next (h : step s = .next t) :
    (s.resetIn.headD false = true ∧ t = s.sampled.coreReset) ∨
    (CoreTurn s ∧ completionStep s.sampled = .next t) ∨
    (∃ w off v, HostTurn s (.wr w off v) ∧ HostMoved (s.sampled.tick.busWrite w off v) t) ∨
    HostMoved s.sampled.tick t := by
  rcases step_cases s with ⟨hr, hs⟩ | ⟨hr, hc, hs⟩ | ⟨hr, hc, hs⟩
  · cases hs.symm.trans h
    exact .inl ⟨hr, rfl⟩
  · exact .inr (.inl ⟨coreTurn_of_test hr hc, hs.symm.trans h⟩)
  · replace h := hs.symm.trans h
    unfold hostStep at h
    split at h
    · rename_i l hl
      rcases hostLine_next h with ⟨w, off, v, rfl, rfl⟩ | hm
      · exact .inr (.inr (.inl ⟨w, off, v, ⟨hr, hc, hl⟩, _, _, _, _, _, rfl⟩))
      · exact .inr (.inr (.inr hm))
    · cases h
      exact .inr (.inr (.inr ⟨_, _, _, _, _, rfl⟩))

end

/-! ## A write of CTRL -/

/-- The state START leaves: the command has started and its LATENCY is taken from the environment (R27 step 3, R380). -/
def State.launched (s : State) : State :=
  { s.started with busyLeft := s.latencies.headD 0, latencies := s.latencies.tail }

theorem launched_spec (s : State) : StartedFrom s s.launched := by
  obtain ⟨st, vfail, parok, irqPending, err, dout, kept⟩ := started_spec s
  exact ⟨st, vfail, parok, irqPending, err, ⟨dout.len, dout.bytes⟩,
    ⟨kept.cmd, kept.ie, kept.atc, fun b => by cases b <;> rfl, kept.mem, kept.dataSize⟩⟩

theorem start_of_not_busy {s : State} (h : s.st ≠ .busy) : s.start = s.launched := by
  rw [start_eq, if_neg h]
  rfl

/-- START after an ACK is START: the start clears what the ACK clears (R27). -/
theorem start_ack (s : State) : s.ack.start = s.start := by
  rw [ack_eq]
  split
  · rename_i h
    rw [start_of_not_busy (show s.acked.st ≠ .busy by simp), start_of_not_busy (by rcases h with h | h <;> simp [h])]
    rfl
  · rfl

section
variable {s : State} {v : Word}

/-- The three actions of a CTRL write, and none (R27). -/
theorem writeCtrl_zeroize (h2 : v.getLsbD 2 = true) : s.writeCtrl v = s.zeroized := by
  simp only [State.writeCtrl, h2, if_true]

theorem writeCtrl_start (h2 : v.getLsbD 2 = false) (h0 : v.getLsbD 0 = true) : s.writeCtrl v = s.start := by
  simp only [State.writeCtrl, h2, h0, Bool.false_eq_true, if_false, if_true]
  split
  · exact start_ack s
  · rfl

theorem writeCtrl_ack (h2 : v.getLsbD 2 = false) (h0 : v.getLsbD 0 = false) (h1 : v.getLsbD 1 = true) :
    s.writeCtrl v = s.ack := by
  simp only [State.writeCtrl, h2, h0, h1, Bool.false_eq_true, if_false, if_true]

theorem writeCtrl_none (h2 : v.getLsbD 2 = false) (h0 : v.getLsbD 0 = false) (h1 : v.getLsbD 1 = false) :
    s.writeCtrl v = s := by
  simp only [State.writeCtrl, h2, h0, h1, Bool.false_eq_true, if_false]

/-- What a CTRL write can do outside BUSY (R27). -/
theorem writeCtrl_cases (s : State) (v : Word) (hb : s.st ≠ .busy) :
    (v.getLsbD 2 = true ∧ s.writeCtrl v = s.zeroized) ∨
    (v.getLsbD 2 = false ∧ v.getLsbD 0 = true ∧ s.writeCtrl v = s.launched) ∨
    (v.getLsbD 2 = false ∧ v.getLsbD 0 = false ∧ v.getLsbD 1 = true ∧ (s.st = .done ∨ s.st = .error) ∧
      s.writeCtrl v = s.acked) ∨
    s.writeCtrl v = s := by
  cases h2 : v.getLsbD 2 with
  | true => exact .inl ⟨rfl, writeCtrl_zeroize h2⟩
  | false =>
    cases h0 : v.getLsbD 0 with
    | true => exact .inr (.inl ⟨rfl, rfl, (writeCtrl_start h2 h0).trans (start_of_not_busy hb)⟩)
    | false =>
      cases h1 : v.getLsbD 1 with
      | false => exact .inr (.inr (.inr (writeCtrl_none h2 h0 h1)))
      | true =>
        by_cases hst : s.st = .done ∨ s.st = .error
        · exact .inr (.inr (.inl ⟨rfl, rfl, rfl, hst, (writeCtrl_ack h2 h0 h1).trans (by rw [ack_eq, if_pos hst])⟩))
        · exact .inr (.inr (.inr ((writeCtrl_ack h2 h0 h1).trans (by rw [ack_eq, if_neg hst]))))

/-- The single registers by their offset (R65). -/
theorem access_ctrl (s : State) : s.access .w32 0x004 = some .ctrl := rfl
theorem access_status (s : State) : s.access .w32 0x008 = some .status := rfl
theorem access_cmd (s : State) : s.access .w32 0x00C = some .cmd := rfl
theorem access_ien (s : State) : s.access .w32 0x010 = some .ien := rfl
theorem access_atc (s : State) : s.access .w32 0x014 = some .atc := rfl

/-- Only a 32-bit access at 0x004 reaches CTRL (R64, R65). -/
theorem access_eq_ctrl {w : AccessWidth} {off : Offset} (h : s.access w off = some .ctrl) : w = .w32 ∧ off = 0x004 := by
  obtain ⟨hw, _, hl⟩ := access_eq_some.mp h
  exact ⟨hw, BitVec.eq_of_toNat_eq (locate_at hl)⟩

/-- A CTRL write on the bus (R27, R376). -/
theorem busWrite_ctrl (hb : s.st ≠ .busy) : s.busWrite .w32 0x004 v = s.writeCtrl v := by
  rw [busWrite_some (access_ctrl s), if_neg hb]
  rfl

theorem busWrite_zeroize (h2 : v.getLsbD 2 = true) : s.busWrite .w32 0x004 v = s.zeroized := by
  rw [busWrite_some (access_ctrl s)]
  split
  · exact if_pos h2
  · exact writeCtrl_zeroize h2

theorem busWrite_ctrl_busy (hb : s.st = .busy) (h2 : v.getLsbD 2 = false) : s.busWrite .w32 0x004 v = s := by
  rw [busWrite_some (access_ctrl s), if_pos hb]
  exact if_neg (by rw [h2]; decide)

/-- While BUSY a bus write is ZEROIZE or nothing (R376). -/
theorem busWrite_busy (hb : s.st = .busy) (w : AccessWidth) (off : Offset) (v : Word) :
    s.busWrite w off v = s ∨ (w = .w32 ∧ off = 0x004 ∧ v.getLsbD 2 = true ∧ s.busWrite w off v = s.zeroized) := by
  cases h : s.access w off with
  | none => exact .inl (busWrite_none h v)
  | some l =>
    rw [busWrite_some h, if_pos hb]
    rcases writeWhileBusy_cases s v l with he | ⟨rfl, h2, he⟩
    · exact .inl he
    · exact .inr ⟨(access_eq_ctrl h).1, (access_eq_ctrl h).2, h2, he⟩

end

/-- A write outside CTRL leaves STATE, ERR, the flags, DOUT_LEN and DATA_MAX (R63). -/
theorem writeLoc_resultKept (s : State) (v : Word) {l : Loc} (hl : l ≠ .ctrl) :
    ResultKept s (s.writeLoc v l) ∧ (s.writeLoc v l).dataSize = s.dataSize := by
  cases l with
  | ctrl => exact absurd rfl hl
  | len b => exact ⟨⟨by simp [State.writeLoc], by simp [State.writeLoc], by simp [State.writeLoc],
      by simp [State.writeLoc], by simp [State.writeLoc], by simp [State.writeLoc]⟩, by simp [State.writeLoc]⟩
  | id | status | cmd | ien | atc | doutLen | win _ _ | dout _ => exact ⟨⟨rfl, rfl, rfl, rfl, rfl, rfl⟩, rfl⟩

/-- Settles O4: each combination of the three bits is one branch of the write. -/
theorem ctrlWriteActsInItsFixedOrder : Obligations.CtrlWriteActsInItsFixedOrder := by
  refine ⟨fun s => busRead_some (access_ctrl s), ?_⟩
  rintro s v t rfl
  refine ⟨fun h2 => ?_, fun h2 hb => busWrite_ctrl_busy hb h2, fun h2 hb h0 => ?_, fun h2 h0 h1 hst => ?_,
    fun h2 h0 h1 hst => ?_, fun h2 h0 h1 => ?_⟩
  · rw [busWrite_zeroize h2]
    exact ⟨zeroized_spec s, rfl⟩
  · rw [busWrite_ctrl hb, writeCtrl_start h2 h0, start_of_not_busy hb]
    exact launched_spec s
  · have hb : s.st ≠ .busy := by rcases hst with h | h <;> simp [h]
    rw [busWrite_ctrl hb, writeCtrl_ack h2 h0 h1, ack_eq, if_pos hst]
    exact acked_spec s
  · rw [busWrite_ctrl (by simp [hst]), writeCtrl_ack h2 h0 h1, ack_eq, if_neg (by simp [hst])]
  · by_cases hb : s.st = .busy
    · exact busWrite_ctrl_busy hb h2
    · rw [busWrite_ctrl hb, writeCtrl_none h2 h0 h1]

/-! ## What a command's next state is -/

/-- The next state of a command is one of the two completions (R334, R335, R339). -/
theorem exec_next {i : Instr} {s t : State} (h : exec i s = .next t) :
    (∃ (vf pk : Bool) (v : Bytes), v.length ≤ s.doutMax ∧ (vf = true → IsVerify i) ∧ (pk = true → i = .parCheck) ∧
      t = (s.afterDraws (drawCount i s)).doneWith vf pk v) ∨
    ∃ k : ErrKind, t = s.raised k := by
  have hc := exec_completes i s
  rw [h] at hc
  cases hc with
  | done fits verify check => exact .inl ⟨_, _, _, fits, verify, check, rfl⟩
  | raised k => exact .inr ⟨k, rfl⟩

/-- Settles O19: both completions write DOUT and the result's fields only. -/
theorem commandsWriteOnlyTheirOutputs : Obligations.CommandsWriteOnlyTheirOutputs := by
  intro i s t h
  rcases exec_next h with ⟨vf, pk, v, fits, verify, check, rfl⟩ | ⟨k, rfl⟩
  · have hd := doneWith_spec s vf pk v (drawCount i s) fits
    exact ⟨hd.kept, hd.host, rfl, fun hv => ⟨rfl, verify hv⟩, fun hp => ⟨rfl, check hp⟩⟩
  · have he := raised_spec s k
    exact ⟨he.kept, he.host, rfl, fun hv => by simp at hv, fun hp => by simp at hp⟩

/-- A completion ends in DONE or ERROR (R334, R335). -/
theorem completionStep_st {s t : State} (h : completionStep s = .next t) : t.st = .done ∨ t.st = .error := by
  rcases completionStep_cases s with ⟨i, hi⟩ | hi
  · rcases exec_next (hi.symm.trans h) with ⟨vf, pk, v, _, _, _, rfl⟩ | ⟨k, rfl⟩
    · exact .inl rfl
    · exact .inr rfl
  · cases hi.symm.trans h
    exact .inr rfl

/-- A bus write that changes STATE is a CTRL write that zeroizes, starts or acknowledges (R23, R27). -/
theorem busWrite_st_changed {s : State} {w : AccessWidth} {off : Offset} {v : Word}
    (h : (s.busWrite w off v).st ≠ s.st) :
    w = .w32 ∧ off = 0x004 ∧
      ((v.getLsbD 2 = true ∧ (s.busWrite w off v).st = .idle) ∨
       (v.getLsbD 2 = false ∧ v.getLsbD 0 = true ∧ s.st ≠ .busy ∧ (s.busWrite w off v).st = .busy) ∨
       (v.getLsbD 2 = false ∧ v.getLsbD 0 = false ∧ v.getLsbD 1 = true ∧ (s.st = .done ∨ s.st = .error) ∧
         (s.busWrite w off v).st = .idle)) := by
  by_cases hb : s.st = .busy
  · rcases busWrite_busy hb w off v with he | ⟨rfl, rfl, h2, he⟩
    · exact absurd (congrArg State.st he) h
    · exact ⟨rfl, rfl, .inl ⟨h2, congrArg State.st he⟩⟩
  · cases ha : s.access w off with
    | none => exact absurd (congrArg State.st (busWrite_none ha v)) h
    | some l =>
      by_cases hl : l = .ctrl
      · subst hl
        obtain ⟨rfl, rfl⟩ := access_eq_ctrl ha
        refine ⟨rfl, rfl, ?_⟩
        rw [busWrite_ctrl hb] at h ⊢
        rcases writeCtrl_cases s v hb with ⟨h2, he⟩ | ⟨h2, h0, he⟩ | ⟨h2, h0, h1, hst, he⟩ | he
        · exact .inl ⟨h2, congrArg State.st he⟩
        · exact .inr (.inl ⟨h2, h0, hb, congrArg State.st he⟩)
        · exact .inr (.inr ⟨h2, h0, h1, hst, congrArg State.st he⟩)
        · exact absurd (congrArg State.st he) h
      · rw [busWrite_some ha, if_neg hb] at h
        exact absurd (writeLoc_resultKept s v hl).1.st h

/-- Settles O5: the completion step and a CTRL write are the only operations that write STATE. -/
theorem stateChangesOnlyByTheListedEvents : Obligations.StateChangesOnlyByTheListedEvents := by
  intro s t h hne
  rcases step_next h with ⟨hr, rfl⟩ | ⟨hc, hs⟩ | ⟨w, off, v, ht, hm⟩ | hm
  · exact .inl ⟨hr, rfl⟩
  · exact .inr (.inl ⟨hc, completionStep_st hs⟩)
  · have hst : t.st = (s.sampled.tick.busWrite w off v).st := hm.coreKept.st
    have hut : s.sampled.tick.st = s.st := (sampled_tick_coreKept s).st
    rw [hst, ← hut] at hne
    obtain ⟨rfl, rfl, hcase⟩ := busWrite_st_changed hne
    rw [hut, ← hst] at hcase
    exact .inr (.inr ⟨v, ht, hcase⟩)
  · exact absurd ((sampled_tick_coreKept s).trans hm.coreKept).st hne

/-! ## Draws -/

/-- PIN.CREATE in DONE has passed its length check, so ISO-1 and ISO-3 have 2 to 10 padding nibbles (R253, R261). -/
theorem pinCreate_done_len {f : PinFormat} {padding : List Nibble} {n : Nat} {s t : State}
    (h : pinCreate f padding n s = .next t) (ht : t.st = .done) : 4 ≤ s.len .pin ∧ s.len .pin ≤ 12 := by
  by_contra hl
  cases ((pinCreate_spec f padding n s).1 hl).symm.trans h
  simp at ht

/-- A step of a stalled command draws nothing, and keeps it BUSY unless the host zeroizes (R344, U15). -/
theorem step_of_stalled {s u : State} (hstall : s.stalled = true) (hb : s.st = .busy)
    (hr : s.resetIn.headD false = false) (h : step s = .next u) :
    Drew s u 0 ∧ (u.st = .busy ∨ ∃ v : Word, v.getLsbD 2 = true ∧ HostTurn s (.wr .w32 0x004 v) ∧ CoreCleared u) := by
  have drew_of_moved : ∀ {q : State}, q.rngPos = s.rngPos → q.rngQueue = s.rngQueue → HostMoved q u → Drew s u 0 := by
    rintro q hp hq ⟨p, ls, ws, bs, r, rfl⟩
    exact ⟨hp, hq⟩
  rcases step_next h with ⟨hr', _⟩ | ⟨⟨_, _, _, hns⟩, _⟩ | ⟨w, off, v, ht, hm⟩ | hm
  · exact absurd (hr.symm.trans hr') (by decide)
  · simp [hstall] at hns
  · rcases busWrite_busy (s := s.sampled.tick) (by simpa using hb) w off v with he | ⟨rfl, rfl, h2, he⟩
    · rw [he] at hm
      exact ⟨drew_of_moved (by simp) (by simp) hm, .inl (by simpa [hb] using hm.coreKept.st)⟩
    · rw [he] at hm
      refine ⟨drew_of_moved (by simp) (by simp) hm, .inr ⟨v, h2, ht, ?_⟩⟩
      obtain ⟨p, ls, ws, bs, r, rfl⟩ := hm
      obtain ⟨st, vfail, parok, irqPending, err, cmd, atc, len, doutLen, mem⟩ := zeroized_spec s.sampled.tick
      exact ⟨st, vfail, parok, irqPending, err, cmd, atc, fun b => by cases b <;> rfl, doutLen, mem⟩
  · exact ⟨drew_of_moved (by simp) (by simp) hm, .inl (by simpa [hb] using hm.coreKept.st)⟩

/-- Settles O21: the draws stand in the DONE completion, none in the error's. -/
theorem drawCountsFollowTheRules : Obligations.DrawCountsFollowTheRules := by
  intro i s t h
  refine ⟨fun hd => ?_, fun he => ?_, fun hd hi => ?_, fun hdec => ?_, fun hstall hb hr u => step_of_stalled hstall hb hr⟩
  · rcases exec_next h with ⟨vf, pk, v, fits, _, _, rfl⟩ | ⟨k, rfl⟩
    · exact ⟨rfl, rfl⟩
    · simp at hd
  · rcases exec_next h with ⟨vf, pk, v, _, _, _, rfl⟩ | ⟨k, rfl⟩
    · simp at he
    · exact ⟨rfl, rfl⟩
  · rcases hi with rfl | rfl
    · have := pinCreate_done_len h hd
      simp only [drawCount]
      omega
    · have := pinCreate_done_len h hd
      simp only [drawCount]
      omega
  · rw [stalled_iff, completionStep_ok hdec, h]
    refine and_congr_right fun _ => ?_
    rcases exec_next h with ⟨vf, pk, v, _, _, _, rfl⟩ | ⟨k, rfl⟩
    · simp [Nat.pos_iff_ne_zero]
    · simp

end Sys2Proof.Machine
end

section
/-! PROOFS. The invariant: its two halves, what each operation of the core does to them, and one step (R25, R36, R331,
R334, R335, R352). -/

namespace Sys2Proof.Machine

/-! ## The two halves of the invariant -/

/-- The half of `Inv` about memory: canonical, only bytes that exist, DOUT zero at and beyond DOUT_LEN (R30, R36). -/
structure MemInv (s : State) : Prop where
  wf : s.mem.wf = true
  stored : ∀ c ∈ s.mem, s.storedOffset c.1 = true
  fits : s.doutLen.toNat ≤ s.doutMax
  tail : ∀ k : Nat, s.doutLen.toNat ≤ k → s.doutByte k = 0x00

/-- The half of `Inv` about the result: STATE with IRQ, ERR, the flags and the presence of an output (R25, R352). -/
structure ResultInv (s : State) : Prop where
  pending : s.irqPending = true ↔ (s.st = .done ∨ s.st = .error)
  error : s.err ≠ 0x00 ↔ s.st = .error
  codes : s.err ∈ errCodes
  flags : s.vfail = true ∨ s.parok = true → s.st = .done
  oneFlag : ¬ (s.vfail = true ∧ s.parok = true)
  output : s.doutLen.toNat > 0 → s.st = .done ∨ s.st = .idle

theorem inv_iff (s : State) : Inv s ↔ MemInv s ∧ ResultInv s := by
  constructor
  · rintro ⟨wf, stored, pending, error, codes, flags, oneFlag, fits, tail, output⟩
    exact ⟨⟨wf, stored, fits, tail⟩, ⟨pending, error, codes, flags, oneFlag, output⟩⟩
  · rintro ⟨⟨wf, stored, fits, tail⟩, ⟨pending, error, codes, flags, oneFlag, output⟩⟩
    exact ⟨wf, stored, pending, error, codes, flags, oneFlag, fits, tail, output⟩

/-! ## Memory -/

section
variable {s t : State}

theorem storedOffset_congr (h : t.dataSize = s.dataSize) (a : Nat) : t.storedOffset a = s.storedOffset a := by
  simp only [State.storedOffset, State.cap_congr h, State.doutMax_congr h]

/-- The bytes that exist: those of the operand buffers, and of DOUT (R30, R31, R36). -/
theorem storedOffset_iff (s : State) (a : Nat) :
    s.storedOffset a = true ↔ (∃ b : Buf, b.base ≤ a ∧ a < b.base + s.cap b) ∨ s.InDout a := by
  have hall : ∀ b : Buf, b ∈ Buf.all := by intro b; cases b <;> decide
  simp [State.storedOffset, hall]

/-- Every operand buffer ends at or below DOUT (R31, R36, R65). -/
theorem Buf.end_le_doutBase (s : State) (b : Buf) : b.base + s.cap b ≤ doutBase := by
  have := s.dataMax_range
  cases b <;> simp only [Buf.base, State.cap, Buf.cap, doutBase] <;> omega

/-- Nothing exists behind DOUT. -/
theorem doutByte_beyond (h : ∀ c ∈ s.mem, s.storedOffset c.1 = true) {k : Nat} (hk : s.doutMax ≤ k) :
    s.doutByte k = 0x00 := by
  refine Memory.read_of_not_listed _ _ fun c hc he => ?_
  rcases (storedOffset_iff s c.1).mp (h c hc) with ⟨b, hb⟩ | hd
  · have := b.end_le_doutBase s
    omega
  · have hd : doutBase ≤ c.1 ∧ c.1 < doutBase + s.doutMax := hd
    omega

/-- The half is kept where memory, DOUT_LEN and the implementation are. -/
theorem MemInv.congr (h : MemInv s) (hm : t.mem = s.mem) (hl : t.doutLen = s.doutLen) (hd : t.dataSize = s.dataSize) :
    MemInv t where
  wf := hm ▸ h.wf
  stored c hc := (storedOffset_congr hd c.1).trans (h.stored c (hm ▸ hc))
  fits := by rw [hl, State.doutMax_congr hd]; exact h.fits
  tail k hk := by
    rw [hl] at hk
    rw [State.doutByte, hm]
    exact h.tail k hk

theorem MemInv.empty (hm : s.mem = []) (hl : s.doutLen = 0) : MemInv s where
  wf := by rw [hm]; rfl
  stored := by simp [hm]
  fits := by simp [hl]
  tail k _ := by rw [State.doutByte, hm, Memory.read_nil]

/-- An output that fits leaves DOUT canonical, and zero behind it (R36). -/
theorem MemInv.setDout (h : MemInv s) {v : Bytes} (hv : v.length ≤ s.doutMax) (hm : t.mem = (s.setDout v).mem)
    (hl : t.doutLen = BitVec.ofNat 16 v.length) (hd : t.dataSize = s.dataSize) : MemInv t := by
  have hdout : DoutIs t v := doutIs_of_mem hm hl hd hv
  have stored : ∀ c ∈ t.mem, t.storedOffset c.1 = true := by
    intro c hc
    rw [hm, State.setDout_mem] at hc
    rw [storedOffset_congr hd]
    rcases Memory.mem_store hc with hc | ⟨h1, h2⟩
    · exact h.stored c (Memory.mem_clear hc)
    · rw [List.take_of_length_le hv] at h2
      exact (storedOffset_iff s c.1).mpr (.inr ⟨h1, by omega⟩)
  refine ⟨hm ▸ State.setDout_wf s v h.wf, stored, ?_, fun k hk => ?_⟩
  · rw [hdout.len, State.doutMax_congr hd]
    exact hv
  · rw [hdout.len] at hk
    by_cases hk' : k < t.doutMax
    · rw [hdout.bytes k hk', List.getD_eq_default _ _ hk]
    · exact doutByte_beyond stored (Nat.le_of_not_lt hk')

/-- A write of an operand buffer reaches stored bytes of its window only (R40, R61). -/
theorem MemInv.store (h : MemInv s) (b : Buf) {k : Nat} {v : Bytes} (hv : v.length ≤ s.cap b - k) :
    MemInv { s with mem := s.mem.store (b.base + k) v } where
  wf := Memory.wf_store _ _ _ h.wf
  stored c hc := by
    rcases Memory.mem_store hc with hc | ⟨h1, h2⟩
    · exact h.stored c hc
    · exact (storedOffset_iff s c.1).mpr (.inl ⟨b, by omega, by omega⟩)
  fits := h.fits
  tail j hj := by
    have := b.end_le_doutBase s
    have hread : (s.mem.store (b.base + k) v).read (doutBase + j) = s.mem.read (doutBase + j) := by
      rw [Memory.read_store, if_neg (by omega)]
    exact hread.trans (h.tail j hj)

end

/-! ## Results -/

section
variable {s t : State}

theorem ResultInv.congr (h : ResultInv s) (hk : ResultKept s t) : ResultInv t where
  pending := by rw [hk.irqPending, hk.st]; exact h.pending
  error := by rw [hk.err, hk.st]; exact h.error
  codes := by rw [hk.err]; exact h.codes
  flags := by rw [hk.vfail, hk.parok, hk.st]; exact h.flags
  oneFlag := by rw [hk.vfail, hk.parok]; exact h.oneFlag
  output := by rw [hk.doutLen, hk.st]; exact h.output

/-- With ERR, the flags and IRQ clear, STATE is IDLE, or BUSY without output. -/
theorem ResultInv.clear (hst : s.st = .idle ∨ s.st = .busy ∧ s.doutLen = 0) (hv : s.vfail = false)
    (hp : s.parok = false) (hi : s.irqPending = false) (he : s.err = 0x00) : ResultInv s := by
  rcases hst with hst | ⟨hst, hl⟩
  · constructor <;> simp [hst, hv, hp, hi, he, errCodes]
  · constructor <;> simp [hst, hl, hv, hp, hi, he, errCodes]

theorem ErrKind.code_mem_errCodes (k : ErrKind) : k.code ∈ errCodes := by cases k <;> decide

theorem ResultInv.done (vf pk : Bool) (v : Bytes) (h : ¬ (vf = true ∧ pk = true)) : ResultInv (s.doneWith vf pk v) where
  pending := by simp
  error := by simp
  codes := by simp [errCodes]
  flags _ := rfl
  oneFlag := h
  output _ := .inl rfl

theorem ResultInv.raised (k : ErrKind) : ResultInv (s.raised k) where
  pending := by simp
  error := ⟨fun _ => rfl, fun _ => k.code_ne_zero⟩
  codes := k.code_mem_errCodes
  flags := by simp
  oneFlag := by simp
  output := by simp

end

/-! ## Each operation -/

section
variable {s t : State}

theorem inv_of_empty (hm : s.mem = []) (hl : s.doutLen = 0) (hc : CoreCleared s) : Inv s :=
  (inv_iff s).mpr ⟨.empty hm hl, .clear (.inl hc.st) hc.vfail hc.parok hc.irqPending hc.err⟩

theorem Inv.coreReset (s : State) : Inv s.coreReset := inv_of_empty rfl rfl (coreReset_spec s)
theorem Inv.zeroized (s : State) : Inv s.zeroized := inv_of_empty rfl rfl (zeroized_spec s)

/-- Settles O59. -/
theorem resetStateHasTheInvariant : Obligations.ResetStateHasTheInvariant := Inv.coreReset State.reset

theorem Inv.acked (h : Inv s) : Inv s.acked :=
  (inv_iff _).mpr ⟨((inv_iff s).mp h).1.congr rfl rfl rfl, .clear (.inl rfl) rfl rfl rfl rfl⟩

theorem Inv.launched (h : Inv s) : Inv s.launched :=
  (inv_iff _).mpr ⟨((inv_iff s).mp h).1.setDout (v := []) (Nat.zero_le _) rfl rfl rfl,
    .clear (.inr ⟨rfl, rfl⟩) rfl rfl rfl rfl⟩

theorem Inv.raised (h : Inv s) (k : ErrKind) : Inv (s.raised k) :=
  (inv_iff _).mpr ⟨((inv_iff s).mp h).1.setDout (v := []) (Nat.zero_le _) rfl rfl rfl, .raised k⟩

theorem Inv.doneWith (h : Inv s) (n : Nat) {vf pk : Bool} {v : Bytes} (hv : v.length ≤ s.doutMax)
    (hf : ¬ (vf = true ∧ pk = true)) : Inv ((s.afterDraws n).doneWith vf pk v) :=
  (inv_iff _).mpr ⟨(((inv_iff s).mp h).1.congr (t := s.afterDraws n) rfl rfl rfl).setDout hv rfl rfl rfl,
    .done vf pk v hf⟩

/-- Every command keeps the invariant: only AC.VERIFY writes VFAIL, only PAR.CHECK PAROK, and no command is both. -/
theorem Inv.exec (h : Inv s) {i : Instr} (he : exec i s = .next t) : Inv t := by
  rcases exec_next he with ⟨vf, pk, v, fits, verify, check, rfl⟩ | ⟨k, rfl⟩
  · refine h.doneWith _ fits fun ⟨hv, hp⟩ => ?_
    have hi := verify hv
    rw [check hp] at hi
    simp [IsVerify] at hi
  · exact h.raised k

theorem Inv.completionStep (h : Inv s) (hc : completionStep s = .next t) : Inv t := by
  rcases completionStep_cases s with ⟨i, hi⟩ | hi
  · exact h.exec (hi.symm.trans hc)
  · cases hi.symm.trans hc
    exact h.raised _

theorem Inv.writeCtrl (h : Inv s) (hb : s.st ≠ .busy) (v : Word) : Inv (s.writeCtrl v) := by
  rcases writeCtrl_cases s v hb with ⟨_, he⟩ | ⟨_, _, he⟩ | ⟨_, _, _, _, he⟩ | he <;> rw [he]
  · exact .zeroized s
  · exact h.launched
  · exact h.acked
  · exact h

theorem Inv.writeLoc (h : Inv s) (hb : s.st ≠ .busy) (v : Word) (l : Loc) : Inv (s.writeLoc v l) := by
  by_cases hl : l = .ctrl
  · subst hl
    exact h.writeCtrl hb v
  · obtain ⟨mem, result⟩ := (inv_iff s).mp h
    obtain ⟨kept, hd⟩ := writeLoc_resultKept s v hl
    refine (inv_iff _).mpr ⟨?_, result.congr kept⟩
    cases l with
    | ctrl => exact absurd rfl hl
    | win b k => exact mem.store b (List.length_take_le _ _)
    | len b => exact mem.congr (s.setLen_mem b v) (s.setLen_doutLen b v) (s.setLen_dataSize b v)
    | id | status | cmd | ien | atc | doutLen | dout _ => exact mem.congr rfl rfl rfl

theorem Inv.busWrite (h : Inv s) (w : AccessWidth) (off : Offset) (v : Word) : Inv (s.busWrite w off v) := by
  by_cases hb : s.st = .busy
  · rcases busWrite_busy hb w off v with he | ⟨_, _, _, he⟩ <;> rw [he]
    · exact h
    · exact .zeroized s
  · cases ha : s.access w off with
    | none => rw [busWrite_none ha]; exact h
    | some l =>
      rw [busWrite_some ha, if_neg hb]
      exact h.writeLoc hb v l

theorem CoreKept.resultKept (h : CoreKept s t) : ResultKept s t :=
  ⟨h.st, h.vfail, h.parok, h.irqPending, h.err, h.doutLen⟩

/-- The same core with the same cells: the environment has no part in the invariant. -/
theorem Inv.congr (h : Inv s) (hk : CoreKept s t) (hm : t.mem = s.mem) : Inv t := by
  obtain ⟨mem, result⟩ := (inv_iff s).mp h
  exact (inv_iff t).mpr ⟨mem.congr hm hk.doutLen hk.dataSize, result.congr hk.resultKept⟩

theorem HostMoved.mem (h : HostMoved s t) : t.mem = s.mem := by
  obtain ⟨p, ls, ws, bs, r, rfl⟩ := h
  rfl

end

/-- Settles O60, by the inversion of a step: each of its operations keeps both halves. -/
theorem everyStepKeepsTheInvariant : Obligations.EveryStepKeepsTheInvariant := by
  intro s t h hs
  have hsampled : Inv s.sampled := h.congr (sampled_coreKept s) rfl
  have htick : Inv s.sampled.tick := h.congr (sampled_tick_coreKept s) (by simp)
  rcases step_next hs with ⟨_, rfl⟩ | ⟨_, hc⟩ | ⟨w, off, v, _, hm⟩ | hm
  · exact .coreReset _
  · exact hsampled.completionStep hc
  · exact (htick.busWrite w off v).congr hm.coreKept hm.mem
  · exact htick.congr hm.coreKept hm.mem

end Sys2Proof.Machine
end

section
/-! PROOFS. Registers and windows on the bus: reset values, STATUS, the register widths, the KSN's missing bytes, the secret
windows; and which command a step runs (R28, R29, R32, R33, R35, R37, R40, R48, R75). -/

namespace Sys2Proof.Machine

/-- Settles O1. -/
theorem resetStateHoldsTheTabledValues : Obligations.ResetStateHoldsTheTabledValues :=
  ⟨coreReset_spec State.reset, rfl, rfl, rfl, by decide⟩

/-! ## STATUS -/

/-- The fields of STATUS at their places (R28). -/
theorem status_fields (s : State) :
    s.status.extractLsb' 0 2 = s.st.code ∧ s.status.getLsbD 2 = s.vfail ∧ s.status.getLsbD 3 = s.parok ∧
    s.status.getLsbD 4 = s.irqPending ∧ s.status.extractLsb' 5 3 = 0 ∧ s.status.extractLsb' 8 8 = s.err ∧
    s.status.extractLsb' 16 16 = 0 := by
  have bits : ∀ i : Nat, s.status.getLsbD i =
      if i < 2 then s.st.code.getLsbD i else if i < 3 then s.vfail else if i < 4 then s.parok
      else if i < 5 then s.irqPending else if i < 8 then false else s.err.getLsbD (i - 8) := by
    intro i
    simp only [State.status, BitVec.getLsbD_append, BitVec.getLsbD_ofBool]
    grind
  refine ⟨?_, bits 2, bits 3, bits 4, ?_, ?_, ?_⟩
  all_goals
    refine BitVec.eq_of_getLsbD_eq fun i hi => ?_
    simp only [BitVec.getLsbD_extractLsb', bits]
    grind

/-- While BUSY the flags, ERR and IRQ are clear, so STATUS is the code of BUSY alone (R49). -/
theorem status_busy {s : State} (h : Inv s) (hb : s.st = .busy) : s.status = 0x00000001 := by
  have hi : s.irqPending = false := by simpa [hb] using h.pending
  have he : s.err = 0x00 := by simpa [hb] using h.error
  have hf : ¬ (s.vfail = true ∨ s.parok = true) := fun hf => by simpa [hb] using h.flags hf
  obtain ⟨hv, hp⟩ : s.vfail = false ∧ s.parok = false := by simpa using hf
  simp only [State.status, hb, hi, he, hv, hp]
  decide

/-- Settles O7. -/
theorem statusReadReportsEveryField : Obligations.StatusReadReportsEveryField := by
  refine ⟨fun s => ⟨s.status, busRead_some (access_status s), status_fields s⟩, rfl, rfl, rfl, rfl, fun s v => ?_,
    fun s h hb => ?_⟩
  · rw [busWrite_some (access_status s)]
    split <;> rfl
  · rw [busRead_some (access_status s)]
    exact congrArg _ (status_busy h hb)

/-! ## Register widths -/

theorem access_lenOff (s : State) (b : Buf) : s.access .w32 (BitVec.ofNat 14 b.lenOff) = some (.len b) := by
  cases b <;> rfl

/-- The length registers stand where the table of R31 says. -/
theorem lenOff_of_bufferTable {m : Nat} {b : Buf} {win cap off : Nat} (h : (b, win, cap, off) ∈ bufferTable m) :
    off = b.lenOff := by
  simp only [bufferTable, List.mem_cons, Prod.mk.injEq, List.not_mem_nil, or_false] at h
  rcases h with h | h | h | h | h | h | h | h | h | h | h | h <;>
  · obtain ⟨rfl, _, _, rfl⟩ := h
    rfl

/-- What a register of fewer than 32 bits reads as after a write (R33, R35). -/
theorem busRead_ien (s : State) : s.busRead .w32 0x010 = .data ((BitVec.ofBool s.ie).setWidth 32) :=
  busRead_some (access_ien s)
theorem busRead_atc (s : State) : s.busRead .w32 0x014 = .data (s.atc.setWidth 32) := busRead_some (access_atc s)

theorem setWidth_setWidth_eq_and (v : Word) : (v.setWidth 16).setWidth 32 = v &&& 0x0000FFFF := by
  have h : v.toNat &&& 65535 = v.toNat % 2 ^ 16 := Nat.and_two_pow_sub_one_eq_mod v.toNat 16
  refine BitVec.eq_of_toNat_eq ?_
  rw [BitVec.toNat_and, BitVec.toNat_setWidth, BitVec.toNat_setWidth]
  exact (Nat.mod_eq_of_lt (by omega)).trans h.symm

/-- Settles O12: each register keeps the bits of its field's type. -/
theorem registerWritesKeepTheirBits : Obligations.RegisterWritesKeepTheirBits := by
  intro s v hb
  refine ⟨⟨?_, busRead_some (access_cmd _)⟩, ?_, ?_, ?_⟩
  · rw [busWrite_some (access_cmd s), if_neg hb]
    rfl
  · rintro t rfl
    rw [busWrite_some (access_ien s), if_neg hb]
    refine ⟨rfl, ?_⟩
    rw [busRead_ien]
    exact congrArg _ BitVec.and_one_eq_setWidth_ofBool_getLsbD.symm
  · rintro t rfl
    rw [busWrite_some (access_atc s), if_neg hb]
    refine ⟨BitVec.setWidth_eq_extractLsb' (by decide : 16 ≤ 32), rfl, ?_⟩
    rw [busRead_atc]
    exact congrArg _ (setWidth_setWidth_eq_and v)
  · rintro b win cap off hrow t rfl
    rw [lenOff_of_bufferTable hrow, busWrite_some (access_lenOff s b), if_neg hb, busRead_some (access_lenOff _ b)]
    refine ⟨?_, rfl, fun c hc => ?_, s.setLen_mem b v, (writeLoc_resultKept s v (by simp)).1, s.setLen_cmd b v,
      s.setLen_ie b v, s.setLen_atc b v⟩
    · rw [State.writeLoc, State.len_setLen, if_pos rfl]
      split <;> rfl
    · rw [State.writeLoc, State.len_setLen, if_neg hc]

/-! ## The operand windows -/

/-- No two operand windows overlap (R65). -/
theorem Buf.eq_of_window {m a : Nat} {b c : Buf} (hb : b.base ≤ a ∧ a < b.base + b.window m)
    (hc : c.base ≤ a ∧ a < c.base + c.window m) : b = c := by
  cases b <;> cases c <;> simp only [Buf.base, Buf.window, Buf.cap, reduceCtorEq] at hb hc ⊢ <;> omega

/-- The operand windows lie behind the registers and before DOUT (R65). -/
theorem Buf.window_range {m a : Nat} {b : Buf} (hm : m ≤ 4096) (h : b.base ≤ a ∧ a < b.base + b.window m) :
    0x100 ≤ a ∧ a < doutBase := by
  cases b <;> simp only [Buf.base, Buf.window, Buf.cap, doutBase] at h ⊢ <;> omega

theorem Buf.lenOff_lt (b : Buf) : b.lenOff < 0x100 := by cases b <;> decide

/-- Each offset of an operand window reaches that window (R65). -/
theorem locate_win {m a : Nat} {b : Buf} (hm : m ≤ 4096) (h : b.base ≤ a ∧ a < b.base + b.window m) :
    locate m a = some (.win b (a - b.base)) := by
  have hb : b ∈ Buf.all := by cases b <;> decide
  obtain ⟨hlo, hhi⟩ := Buf.window_range hm h
  cases hl : locate m a with
  | none =>
    unfold locate at hl
    split at hl
    · cases hl
    · split at hl
      · cases hl
      · split at hl
        · cases hl
        · rename_i hn
          exact absurd (decide_eq_true h) (List.find?_eq_none.mp hn b hb)
  | some l =>
    have hat := locate_at hl
    cases l with
    | id | ctrl | status | cmd | ien | atc | doutLen => simp only [Loc.At] at hat; omega
    | len c => exact absurd (hat.symm ▸ c.lenOff_lt) (Nat.not_lt.mpr hlo)
    | dout k => exact absurd hat.1 (Nat.not_le.mpr hhi)
    | win c k =>
      obtain ⟨h1, h2, rfl⟩ := hat
      rw [Buf.eq_of_window ⟨h1, h2⟩ h]

theorem access_win {s : State} {off : Offset} {b : Buf} (h4 : off.toNat % 4 = 0)
    (h : b.base ≤ off.toNat ∧ off.toNat < b.base + b.window s.dataMax) :
    s.access .w32 off = some (.win b (off.toNat - b.base)) :=
  access_eq_some.mpr ⟨rfl, h4, locate_win s.dataMax_range.2.1 h⟩

/-! ## The KSN window -/

theorem access_ksn8 (s : State) : s.access .w32 0x158 = some (.win .ksn 8) :=
  access_win (s := s) (off := 0x158) (b := .ksn) rfl ⟨by decide, by simp [Buf.base, Buf.window, Buf.cap]⟩

/-- Nothing stands between the KSN's window and the UN's (R40, R66). -/
theorem access_behind_ksn (s : State) : s.access .w32 0x15C = none := by
  refine Option.eq_none_iff_forall_not_mem.mpr fun l hl => ?_
  have hat : l.At s.dataMax 0x15C := locate_at (access_eq_some.mp hl).2.2
  cases l with
  | id | ctrl | status | cmd | ien | atc | doutLen => simp [Loc.At] at hat
  | len b => cases b <;> simp [Loc.At, Buf.lenOff] at hat
  | win b k => cases b <;> simp [Loc.At, Buf.base, Buf.window, Buf.cap] at hat
  | dout k => simp [Loc.At, doutBase] at hat

/-- The upper two bytes of a bus word (R61). -/
theorem bytesOf_take_two (hi lo : BitVec 16) :
    (bytesOf (hi ++ lo)).take 2 = [hi.extractLsb' 8 8, hi.extractLsb' 0 8] := by
  simp only [bytesOf, List.take_succ_cons, List.take_zero, List.cons.injEq, and_true]
  constructor <;>
  · refine BitVec.eq_of_getLsbD_eq fun i h => ?_
    simp only [BitVec.getLsbD_extractLsb', BitVec.getLsbD_append]
    grind

/-- Settles O10: the KSN's capacity cuts the window's last word in half. -/
theorem ksnWindowHasTenBytes : Obligations.KsnWindowHasTenBytes := by
  intro s v hi lo
  refine ⟨⟨_, busRead_some (access_ksn8 s), ?_⟩, ?_, busRead_none (access_behind_ksn s),
    busWrite_none (access_behind_ksn s) v, fun hk => ?_, fun hk h16 => ⟨?_, ?_⟩⟩
  · have h10 : s.busByte .ksn 10 = 0 := rfl
    have h11 : s.busByte .ksn 11 = 0 := rfl
    simp only [State.readLoc, Buf.writeOnly, Bool.false_eq_true, if_false, h10, h11, wordOf]
    refine BitVec.eq_of_getLsbD_eq fun i h => ?_
    simp only [BitVec.getLsbD_extractLsb', BitVec.getLsbD_append]
    grind
  · have hcap : s.cap .ksn - 8 = 2 := rfl
    simp only [busWrite_some (access_ksn8 s), State.writeWhileBusy, State.writeLoc, hcap, bytesOf_take_two]
  · have h : s.ksn10 = false := by simpa [State.ksn10] using hk
    exact ⟨_, by simp [exec, execKsnInc, h, raise_eq], raised_spec s .invalidOperand⟩
  · have h : s.ksn10 = false := by simpa [State.ksn10] using hk
    have h' : s.key16 = true := (key16_iff s).mpr h16
    exact ⟨_, by simp [exec, execDukptIpek, h, h', raise_eq], raised_spec s .invalidOperand⟩
  · have h : s.ksn10 = false := by simpa [State.ksn10] using hk
    have h' : s.key16 = true := (key16_iff s).mpr h16
    exact ⟨_, by simp [exec, execDukptKeyset, h, h', raise_eq], raised_spec s .invalidOperand⟩

/-! ## The secret windows -/

theorem busRead_secret {s : State} {off : Offset} {b : Buf} (h4 : off.toNat % 4 = 0) (hb : b.writeOnly = true)
    (h : b.base ≤ off.toNat ∧ off.toNat < b.base + b.window s.dataMax) : s.busRead .w32 off = .data 0x00000000 := by
  rw [busRead_some (access_win h4 h), State.readLoc, if_pos hb]

theorem hostMoved_rd (s : State) (w : AccessWidth) (off : Offset) (x : Nat) :
    HostMoved s { (s.setLocal x (s.busRead w off).word).nextLine with resp := s.busRead w off } :=
  ⟨_, _, _, _, _, rfl⟩

/-- Settles O11. -/
theorem secretWindowsReadZero : Obligations.SecretWindowsReadZero := by
  refine ⟨fun s off h4 ha => ?_, fun s => ⟨busRead_some (access_lenOff s .key0), busRead_some (access_lenOff s .key1),
    busRead_some (access_lenOff s .pin)⟩, fun s w off x ht => ?_⟩
  · rcases ha with ⟨hlo, hhi⟩ | hpin
    · by_cases h : off.toNat < 0x120
      · exact busRead_secret (b := .key0) h4 rfl ⟨hlo, by simpa [Buf.base, Buf.window, Buf.cap] using h⟩
      · exact busRead_secret (b := .key1) h4 rfl ⟨Nat.le_of_not_lt h, by simpa [Buf.base, Buf.window, Buf.cap] using hhi⟩
    · exact busRead_secret (b := .pin) h4 rfl ⟨hpin.1, by simpa [Buf.base, Buf.window, Buf.cap] using hpin.2⟩
  · exact ⟨_, (step_of_hostTurn ht).trans (hostLine_rd w off x _),
      (sampled_tick_coreKept s).trans (hostMoved_rd _ w off x).coreKept, by simp, by simp⟩

/-! ## What a read depends on -/

/-- A read depends on the core only (R62). -/
theorem busRead_congr {s t : State} (h : CoreKept s t) (w : AccessWidth) (off : Offset) :
    t.busRead w off = s.busRead w off := by
  have hloc : ∀ l : Loc, t.readLoc l = s.readLoc l := by
    intro l
    cases l <;> simp only [State.readLoc, State.status, State.busByte, State.byte, State.doutByte,
      State.cap_congr h.dataSize, h.st, h.vfail, h.parok, h.irqPending, h.err, h.cmd, h.ie, h.atc, h.len, h.doutLen,
      h.mem]
  have hacc : t.access w off = s.access w off := by
    simp only [State.access, State.dataMax_congr h.dataSize]
  simp only [State.busRead, hacc, hloc]

theorem hostMoved_readNextWord (s : State) : HostMoved s s.readNextWord := ⟨_, _, _, _, _, rfl⟩
theorem hostMoved_takeString (s : State) (x n : Nat) : HostMoved s (s.takeString x n).nextLine := ⟨_, _, _, _, _, rfl⟩

/-! ## The step around a command -/

/-- Right after `withFetchWord` it is the core's turn (R20, R24, R29). -/
theorem coreTurn_withFetchWord (s : State) (nbits w : Nat) : CoreTurn (s.withFetchWord nbits w) := by
  refine ⟨?_, rfl, rfl, ?_⟩
  · rw [State.withFetchWord, State.armed_resetIn]
    split
    · rfl
    · exact Bool.eq_false_iff.mpr ‹_›
  · have hport : (s.withFetchWord nbits w).portSilent = false := by
      rw [State.withFetchWord, State.portSilent, State.armed_rngSilent, State.armed_rngDown]
      split
      · rfl
      · exact Bool.eq_false_iff.mpr ‹_›
    rw [State.stalled, hport, Bool.false_and]

/-- The reads of an `rdb`: a word of DOUT, or the byte string at its end; the core is as before (R75, R112). -/
theorem step_rdDout {s : State} {n x : Nat} {v : Word} (ht : HostTurn s (.rdDout n x)) (hv : s.localVal n = some v) :
    ∃ t, step s = .next t ∧ CoreKept s t ∧ Drew s t 0 ∧
      (4 * s.rdbWords.length < v.toNat → t.pos = s.pos ∧ t.rdbWords =
        s.rdbWords ++ [(s.busRead .w32 (BitVec.ofNat 14 (0x2000 + 4 * s.rdbWords.length))).word]) ∧
      (v.toNat ≤ 4 * s.rdbWords.length → t.pos = s.pos + 1 ∧ t.rdbWords = [] ∧
        t.stringVal x = some ((s.rdbWords.flatMap bytesOf).take v.toNat)) := by
  have hv' : s.sampled.tick.localVal n = some v := by simpa [State.localVal] using hv
  obtain ⟨more, last⟩ := hostLine_rdDout n x s.sampled.tick v hv'
  rw [step_of_hostTurn ht]
  have hw : s.sampled.tick.rdbWords = s.rdbWords := by simp
  rw [hw] at more last
  by_cases h : 4 * s.rdbWords.length < v.toNat
  · refine ⟨_, more h, (sampled_tick_coreKept s).trans (hostMoved_readNextWord _).coreKept, ⟨by simp, by simp⟩,
      fun _ => ⟨by simp, ?_⟩, fun h' => absurd h (Nat.not_lt.mpr h')⟩
    rw [State.readNextWord_rdbWords, hw, busRead_congr (sampled_tick_coreKept s)]
    rfl
  · have h' := Nat.le_of_not_lt h
    exact ⟨_, last h', (sampled_tick_coreKept s).trans (hostMoved_takeString _ x _).coreKept, ⟨by simp, by simp⟩,
      fun g => absurd g h, fun _ => ⟨by simp, by simp, by simp [State.stringVal]⟩⟩

/-- Settles O14. -/
theorem stepRunsTheDecodedCommand : Obligations.StepRunsTheDecodedCommand := by
  have run : ∀ (s : State) (i : Instr), CoreTurn s → decode s.cmd = .ok i → step s = exec i s.sampled :=
    fun s i hc hd => (step_of_coreTurn hc).trans (completionStep_ok (s := s.sampled) hd)
  refine ⟨run, fun s hc hd => ?_, fun s l ht => step_of_hostTurn ht,
    fun s => ⟨sampled_coreKept s, sampled_tick_coreKept s⟩, fun s n x v ht hv => step_rdDout ht hv, ?_⟩
  · exact ⟨_, (step_of_coreTurn hc).trans (completionStep_illegal (s := s.sampled) hd), raised_spec _ .illegalCommand⟩
  · rintro s w t rfl
    have hcmd : (s.withFetchWord 32 w.toNat).cmd = w := by
      rw [State.withFetchWord, State.armed_cmd, Nat.mod_eq_of_lt w.isLt, BitVec.ofNat_toNat, BitVec.setWidth_eq]
    have hc := coreTurn_withFetchWord s 32 w.toNat
    exact ⟨hc, hcmd, fun i hi => run _ i hc (by rw [hcmd, hi])⟩

end Sys2Proof.Machine
end

section
/-! PROOFS. The address map and the buffer windows on the bus: which accesses are bus errors and what such an access does,
and the bytes a word of a buffer window reads and writes (R31, R61, R64 to R67). -/

namespace Sys2Proof.Machine

/-! ## Which offsets are mapped -/

theorem Buf.mem_all (b : Buf) : b ∈ Buf.all := by cases b <;> decide

/-- Where a location stands, the map finds one (R65). -/
theorem exists_locate_of_at {m a : Nat} {l : Loc} (h : l.At m a) : ∃ l' : Loc, locate m a = some l' := by
  refine Option.ne_none_iff_exists'.mp fun hn => ?_
  unfold locate at hn
  split at hn
  · cases hn
  next hreg =>
  split at hn
  · cases hn
  next hlen =>
  split at hn
  · cases hn
  next hwin =>
  split at hn
  · cases hn
  next hdout =>
  rw [List.find?_eq_none] at hreg hlen hwin
  cases l with
  | id | ctrl | status | cmd | ien | atc | doutLen =>
    cases h
    exact absurd hreg (by decide)
  | len b => exact hlen b b.mem_all (beq_iff_eq.mpr h.symm)
  | win b k => exact hwin b b.mem_all (decide_eq_true ⟨h.1, h.2.1⟩)
  | dout k => exact hdout ⟨h.1, h.2.1⟩

/-- A statement about some buffer, buffer by buffer. -/
theorem exists_buf_iff (p : Buf → Prop) :
    (∃ b, p b) ↔ p .key0 ∨ p .key1 ∨ p .iv ∨ p .ksn ∨ p .un ∨ p .aux0 ∨ p .aux1 ∨ p .aux2 ∨ p .pan ∨ p .psn ∨ p .pin ∨
      p .din := by
  refine ⟨fun ⟨b, hb⟩ => ?_, fun h => ?_⟩
  · cases b <;> simp [hb]
  · rcases h with h | h | h | h | h | h | h | h | h | h | h | h <;> exact ⟨_, h⟩

/-- Something stands at an offset: a register, a word of an operand window, or a word of DOUT (R65). -/
theorem exists_at_iff {m a : Nat} :
    (∃ l : Loc, l.At m a) ↔
      (a = 0x000 ∨ a = 0x004 ∨ a = 0x008 ∨ a = 0x00C ∨ a = 0x010 ∨ a = 0x014 ∨ a = 0x050 ∨ ∃ b : Buf, a = b.lenOff) ∨
      (∃ b : Buf, b.base ≤ a ∧ a < b.base + b.window m) ∨ (doutBase ≤ a ∧ a < doutBase + (m + 64)) := by
  constructor
  · rintro ⟨l, h⟩
    cases l with
    | id | ctrl | status | cmd | ien | atc | doutLen => simp only [Loc.At] at h; simp [h]
    | len b => exact .inl (by simp only [Loc.At] at h; simp [h])
    | win b k => exact .inr (.inl ⟨b, h.1, h.2.1⟩)
    | dout k => exact .inr (.inr ⟨h.1, h.2.1⟩)
  · rintro ((h | h | h | h | h | h | h | ⟨b, h⟩) | ⟨b, h1, h2⟩ | ⟨h1, h2⟩)
    exacts [⟨.id, h⟩, ⟨.ctrl, h⟩, ⟨.status, h⟩, ⟨.cmd, h⟩, ⟨.ien, h⟩, ⟨.atc, h⟩, ⟨.doutLen, h⟩, ⟨.len b, h⟩,
      ⟨.win b _, h1, h2, rfl⟩, ⟨.dout _, h1, h2, rfl⟩]

/-- The words of the registers fill two ranges of offsets (R65). -/
theorem registers_iff {a : Nat} (h4 : a % 4 = 0) :
    (a = 0x000 ∨ a = 0x004 ∨ a = 0x008 ∨ a = 0x00C ∨ a = 0x010 ∨ a = 0x014 ∨ a = 0x050 ∨ ∃ b : Buf, a = b.lenOff) ↔
      a < 0x018 ∨ (0x020 ≤ a ∧ a < 0x054) := by
  rw [exists_buf_iff]
  simp only [Buf.lenOff]
  omega

/-- The words of the operand windows fill four ranges of offsets (R65). -/
theorem windows_iff {m a : Nat} (hm : m % 4 = 0) (h4 : a % 4 = 0) :
    (∃ b : Buf, b.base ≤ a ∧ a < b.base + b.window m) ↔
      (0x100 ≤ a ∧ a < 0x15C) ∨ (0x160 ≤ a ∧ a < 0x1A4) ∨ (0x1B0 ≤ a ∧ a < 0x1C0) ∨ (0x1000 ≤ a ∧ a < 0x1000 + m) := by
  rw [exists_buf_iff]
  simp only [Buf.base, Buf.window, Buf.cap]
  omega

/-- The map locates exactly the mapped multiples of 4 (R65, R66). -/
theorem exists_locate_iff_mapped {m a : Nat} (hm : m % 4 = 0) (h4 : a % 4 = 0) :
    (∃ l : Loc, locate m a = some l) ↔ Mapped m a := by
  calc (∃ l : Loc, locate m a = some l)
      ↔ ∃ l : Loc, l.At m a := ⟨fun ⟨l, h⟩ => ⟨l, locate_at h⟩, fun ⟨_, h⟩ => exists_locate_of_at h⟩
    _ ↔ Mapped m a := by
        rw [exists_at_iff, registers_iff h4, windows_iff hm h4]
        simp only [Mapped, doutBase, or_assoc]

section
variable {s t : State} {w : AccessWidth} {off : Offset}

/-- An access reaches nothing exactly when it is none of 32 bits at a mapped multiple of 4 (R64, R66). -/
theorem access_eq_none_iff :
    s.access w off = none ↔ ¬ (w = .w32 ∧ off.toNat % 4 = 0 ∧ Mapped s.dataMax off.toNat) := by
  have hm : s.dataMax % 4 = 0 := by
    obtain ⟨_, _, h16⟩ := s.dataMax_range
    omega
  rw [← not_iff_not, not_not, ← ne_eq, Option.ne_none_iff_exists']
  simp only [access_eq_some, exists_and_left]
  exact and_congr_right fun _ => and_congr_right fun h4 => exists_locate_iff_mapped hm h4

theorem busRead_eq_busError_iff : s.busRead w off = .busError ↔ s.access w off = none := by
  cases h : s.access w off with
  | none => simp [busRead_none h]
  | some l => simp [busRead_some h]

theorem busWriteResp_eq_busError_iff : s.busWriteResp w off = .busError ↔ s.access w off = none := by
  cases h : s.access w off with
  | none => simp [busWriteResp_none h]
  | some l => simp [busWriteResp_some h]

/-! ## The host step of a bad access -/

/-- The name last read into has the value read (R111). -/
theorem localVal_of_locals_cons {x : Nat} {v : Word} {ls : List (Nat × Word)} (h : s.locals = (x, v) :: ls) :
    s.localVal x = some v := by
  simp [State.localVal, h]

theorem access_congr (h : t.dataSize = s.dataSize) (w : AccessWidth) (off : Offset) :
    t.access w off = s.access w off := by
  simp only [State.access, State.dataMax_congr h]

/-- A write that reaches nothing leaves the core as it was, and its response is a bus error (R67). -/
theorem step_wr_of_access_none (h : s.access w off = none) {v : Word} (ht : HostTurn s (.wr w off v)) :
    ∃ t, step s = .next t ∧ CoreKept s t ∧ t.resp = .busError := by
  have hk := sampled_tick_coreKept s
  have h' : s.sampled.tick.access w off = none := (access_congr hk.dataSize w off).trans h
  refine ⟨_, (step_of_hostTurn ht).trans (hostLine_wr w off v _), ?_, busWriteResp_none h'⟩
  rw [busWrite_none h']
  exact hk.trans (HostMoved.coreKept ⟨_, _, _, _, _, rfl⟩)

/-- A read that reaches nothing leaves the core as it was, its response is a bus error and its data 0 (R67). -/
theorem step_rd_of_access_none (h : s.access w off = none) {x : Nat} (ht : HostTurn s (.rd w off x)) :
    ∃ t, step s = .next t ∧ CoreKept s t ∧ t.resp = .busError ∧ t.localVal x = some 0x00000000 := by
  have hk := sampled_tick_coreKept s
  have h' : s.sampled.tick.access w off = none := (access_congr hk.dataSize w off).trans h
  refine ⟨_, (step_of_hostTurn ht).trans (hostLine_rd w off x _), hk.trans (hostMoved_rd _ w off x).coreKept,
    busRead_none h', ?_⟩
  rw [busRead_none h']
  exact localVal_of_locals_cons rfl

end

/-- Settles O8: a bus error is an access that reaches nothing, and the map is complete for the mapped offsets. -/
theorem badAccessesAreBusErrors : Obligations.BadAccessesAreBusErrors := by
  intro s w off
  rw [← access_eq_none_iff]
  exact ⟨busRead_eq_busError_iff, busWriteResp_eq_busError_iff, fun h =>
    ⟨busWrite_none h, fun _ => step_wr_of_access_none h, fun _ => step_rd_of_access_none h⟩⟩

/-! ## The bytes of a bus word -/

/-- Byte `j` of a bus word, the first in bits 31 to 24 (R61). -/
theorem wordOf_byte (f : Nat → Byte) {j : Nat} (hj : j < 4) :
    (wordOf (f 0) (f 1) (f 2) (f 3)).extractLsb' (24 - 8 * j) 8 = f j := by
  obtain ⟨h0, h1, h2, h3⟩ := wordOf_extract (f 0) (f 1) (f 2) (f 3)
  match j, hj with
  | 0, _ => exact h0
  | 1, _ => exact h1
  | 2, _ => exact h2
  | 3, _ => exact h3

theorem bytesOf_byte (v : Word) {j : Nat} (hj : j < 4) : (bytesOf v).getD j 0x00 = v.extractLsb' (24 - 8 * j) 8 := by
  match j, hj with
  | 0, _ | 1, _ | 2, _ | 3, _ => rfl

/-! ## DOUT -/

/-- The offsets of the bus have 14 bits (R60). -/
theorem toNat_ofNat_offset {a : Nat} (h : a < 0x4000) : (BitVec.ofNat 14 a).toNat = a :=
  (BitVec.toNat_ofNat a 14).trans (Nat.mod_eq_of_lt h)

/-- Each offset of DOUT reaches DOUT (R65). -/
theorem locate_dout {m a : Nat} (hm : m ≤ 4096) (h : doutBase ≤ a ∧ a < doutBase + (m + 64)) :
    locate m a = some (.dout (a - doutBase)) := by
  obtain ⟨l, hl⟩ := exists_locate_of_at (l := .dout (a - doutBase)) ⟨h.1, h.2, rfl⟩
  have hat := locate_at hl
  have hlo : 0x2000 ≤ a := h.1
  cases l with
  | id | ctrl | status | cmd | ien | atc | doutLen => simp only [Loc.At] at hat; omega
  | len b =>
    have hb : a < 0x100 := hat.symm ▸ b.lenOff_lt
    omega
  | win b k => exact absurd (Buf.window_range hm ⟨hat.1, hat.2.1⟩).2 (Nat.not_lt.mpr h.1)
  | dout k => rw [hl, hat.2.2]

theorem access_dout {s : State} {k : Nat} (h4 : k % 4 = 0) (hk : k < s.dataMax + 64) :
    s.access .w32 (BitVec.ofNat 14 (0x2000 + k)) = some (.dout k) := by
  obtain ⟨_, hm, _⟩ := s.dataMax_range
  have hloc : locate s.dataMax (0x2000 + k) = some (.dout (0x2000 + k - doutBase)) :=
    locate_dout hm ⟨Nat.le_add_right _ _, by simp only [doutBase]; omega⟩
  rw [access_eq_some, toNat_ofNat_offset (by omega), hloc, doutBase, Nat.add_sub_cancel_left]
  exact ⟨rfl, by omega, rfl⟩

/-- The bytes of a word of DOUT: DOUT's own, or 0 while BUSY (R36, R61, R376). -/
theorem readLoc_dout_byte (s : State) (k : Nat) {j : Nat} (hj : j < 4) :
    (s.readLoc (.dout k)).extractLsb' (24 - 8 * j) 8 = if s.st = .busy then 0x00 else s.mem.read (0x2000 + k + j) := by
  by_cases hb : s.st = .busy
  · simp [State.readLoc, hb]
  · rw [State.readLoc, if_neg hb, if_neg hb, Nat.add_assoc]
    exact wordOf_byte (fun i => s.doutByte (k + i)) hj

/-! ## The words of an operand window -/

/-- The rows of R31 are the model's windows and capacities. -/
theorem window_of_bufferTable {m : Nat} {b : Buf} {win cap off : Nat} (h : (b, win, cap, off) ∈ bufferTable m) :
    win = b.base ∧ cap = b.cap m := by
  simp only [bufferTable, List.mem_cons, Prod.mk.injEq, List.not_mem_nil, or_false] at h
  rcases h with h | h | h | h | h | h | h | h | h | h | h | h <;>
  · obtain ⟨rfl, rfl, rfl, _⟩ := h
    exact ⟨rfl, rfl⟩

theorem Buf.base_mod_four (b : Buf) : b.base % 4 = 0 := by cases b <;> rfl

theorem access_win_word {s : State} {b : Buf} {k : Nat} (h4 : k % 4 = 0) (hk : k < s.cap b) :
    s.access .w32 (BitVec.ofNat 14 (b.base + k)) = some (.win b k) := by
  have hwin : b.base ≤ b.base + k ∧ b.base + k < b.base + b.window s.dataMax := by
    simp only [State.cap, Buf.window] at hk ⊢
    omega
  have hoff : (BitVec.ofNat 14 (b.base + k)).toNat = b.base + k := by
    have hlt : b.base + k < 0x2000 := (Buf.window_range s.dataMax_range.2.1 hwin).2
    exact toNat_ofNat_offset (by omega)
  rw [access_win (b := b) (by rw [hoff]; have := b.base_mod_four; omega) (by rw [hoff]; exact hwin), hoff,
    Nat.add_sub_cancel_left]

/-- The bytes of a word of a readable window: the buffer's, and 0 past its capacity (R40, R61, R62). -/
theorem readLoc_win_byte (s : State) {b : Buf} (hb : b.writeOnly = false) (k : Nat) {j : Nat} (hj : j < 4) :
    (s.readLoc (.win b k)).extractLsb' (24 - 8 * j) 8 =
      if k + j < s.cap b then s.mem.read (b.base + k + j) else 0x00 := by
  rw [State.readLoc, hb, if_neg Bool.false_ne_true, Nat.add_assoc]
  exact wordOf_byte (fun i => s.busByte b (k + i)) hj

/-- The bytes a write of a window word stores, and the bytes it leaves (R61, R63). -/
theorem writeLoc_win_byte (s : State) (b : Buf) (k : Nat) (v : Word) {j : Nat} (hj : j < 4) (hcap : k + j < s.cap b) :
    (s.writeLoc v (.win b k)).mem.read (b.base + k + j) = v.extractLsb' (24 - 8 * j) 8 := by
  have hlen : ((bytesOf v).take (s.cap b - k)).length = min (s.cap b - k) 4 := List.length_take
  rw [State.writeLoc, Memory.read_store, if_pos (by omega), Nat.add_sub_cancel_left, ← bytesOf_byte v hj]
  simp only [List.getD_eq_getElem?_getD, List.getElem?_take]
  rw [if_pos (by omega)]

theorem writeLoc_win_frame (s : State) (b : Buf) (k : Nat) (v : Word) {a : Nat}
    (ha : ¬ (b.base + k ≤ a ∧ a < b.base + k + 4 ∧ a < b.base + s.cap b)) :
    (s.writeLoc v (.win b k)).mem.read a = s.mem.read a := by
  have hlen : ((bytesOf v).take (s.cap b - k)).length = min (s.cap b - k) 4 := List.length_take
  rw [State.writeLoc, Memory.read_store, if_neg (by omega)]

/-- Settles O9: a window word is four bytes of its buffer, cut at the capacity. -/
theorem bufferWordsAreBigEndian : Obligations.BufferWordsAreBigEndian := by
  refine ⟨fun s k h4 hk => ⟨_, busRead_some (access_dout h4 hk), fun j => readLoc_dout_byte s k⟩, ?_⟩
  intro s b win cap len k hrow h4 hk
  obtain ⟨rfl, rfl⟩ := window_of_bufferTable hrow
  have hacc := access_win_word (s := s) h4 hk
  refine ⟨fun h0 h1 hp => ⟨_, busRead_some hacc, fun j => readLoc_win_byte s ?_ k⟩, fun hsecret => ?_, ?_⟩
  · cases b <;> simp [Buf.writeOnly] at h0 h1 hp ⊢
  · rw [busRead_some hacc]
    rcases hsecret with rfl | rfl | rfl <;> rfl
  · rintro v hb t rfl
    rw [busWrite_some hacc, if_neg hb]
    exact ⟨fun j hj hcap => writeLoc_win_byte s b k v hj hcap, fun a ha => writeLoc_win_frame s b k v ha,
      (writeLoc_resultKept s v (by simp)).1, rfl, rfl, rfl, rfl, fun c => by cases c <;> rfl⟩

end Sys2Proof.Machine
end

section
/-! PROOFS. The encoding: the fields and the rows of the CMD word, the decoder on the opcode table, the round trip of
encoder and decoder, and the words legal by their fields (R91 to R97, R99). -/

namespace Sys2Proof.Machine

/-! ## Fields -/

/-- A field, put back in its place, has the word's bits there and zeros around them (R91). -/
theorem getLsbD_cmdField (w : Word) (lo len : Nat) {i : Nat} (hi : i < 32) :
    (BitVec.ofNat 32 (cmdField w lo len) <<< lo).getLsbD i = (decide (lo ≤ i ∧ i < lo + len) && w.getLsbD i) := by
  simp only [cmdField, BitVec.ofNat_toNat, BitVec.getLsbD_shiftLeft, BitVec.getLsbD_setWidth,
    BitVec.getLsbD_extractLsb']
  grind

theorem getLsbD_of_cmdField_eq_zero {w : Word} {lo len i : Nat} (h : cmdField w lo len = 0) (hlo : lo ≤ i)
    (hi : i < lo + len) : w.getLsbD i = false := by
  have hbit := congrArg (fun v => v.getLsbD (i - lo)) (BitVec.eq_of_toNat_eq (y := 0#len) h)
  simpa [hlo, show i - lo < len by omega] using hbit

theorem cmdField_lt (w : Word) (lo len : Nat) : cmdField w lo len < 2 ^ len := (w.extractLsb' lo len).isLt

/-- The fields of a word (R91). -/
def fieldsOf (w : Word) : Fields where
  opc := cmdField w 0 8
  dir := cmdField w 8 1
  mode := cmdField w 9 3
  alg := cmdField w 12 1
  arg := cmdField w 16 4
  method := cmdField w 20 2
  ctype := cmdField w 22 2

/-- A word whose must-be-zero bits are 0 is the word of its fields (R91, R97). -/
theorem word_fieldsOf {w : Word} (h13 : cmdField w 13 3 = 0) (h24 : cmdField w 24 8 = 0) : (fieldsOf w).word = w := by
  have hopc : BitVec.ofNat 32 (cmdField w 0 8) = BitVec.ofNat 32 (cmdField w 0 8) <<< 0 :=
    (BitVec.shiftLeft_zero _).symm
  refine BitVec.eq_of_getLsbD_eq fun i hi => ?_
  have hlow : 13 ≤ i → i < 16 → w.getLsbD i = false := getLsbD_of_cmdField_eq_zero h13
  have hhigh : 24 ≤ i → i < 32 → w.getLsbD i = false := getLsbD_of_cmdField_eq_zero h24
  simp only [Fields.word, fieldsOf, BitVec.getLsbD_or]
  rw [hopc]
  simp only [getLsbD_cmdField w _ _ hi]
  grind

/-- ARG, put back in its place, is the word under the field's mask (R91). -/
theorem shifted_argField (w : Word) : BitVec.ofNat 32 (argField w) <<< 16 = w &&& 0x000F0000 := by
  refine BitVec.eq_of_getLsbD_eq fun i hi => ?_
  have hmask : (0x000F0000 : Word).getLsbD i = decide (16 ≤ i ∧ i < 20) := by decide +revert
  rw [BitVec.getLsbD_and, hmask, Bool.and_comm]
  exact getLsbD_cmdField w 16 4 hi

end Sys2Proof.Machine

namespace Sys2Proof

open Sys2Proof.Machine

/-! ## Rows -/

/-- The word of a row with this ARG: the row's pattern, and ARG where the mask leaves the field free (R97). -/
def Row.word (r : Row) (arg : Nat) : Word := r.pattern ||| (BitVec.ofNat 32 arg <<< 16 &&& ~~~r.mask)

theorem Row.hit_iff (r : Row) (w : Word) : r.hit w = true ↔ w &&& r.mask = r.pattern := beq_iff_eq

/-- A row's pattern lies under its mask, and the mask leaves free no bit but ARG's (R97). -/
theorem row_mask_spec :
    ∀ r ∈ opcodeTable, r.pattern &&& r.mask = r.pattern ∧ r.mask ||| 0x000F0000 = BitVec.allOnes 32 := by
  decide

/-- The command of a row with each ARG is well-formed, its encoding is the row's word, and it is read back from the ARG
field of that word (R91, R92, R97). -/
theorem row_command_spec : ∀ r ∈ opcodeTable, ∀ arg < 16, (r.command arg).wellFormed = true ∧
    encode (r.command arg) = r.word arg ∧ r.command (argField (r.word arg)) = r.command arg := by
  decide

/-- Any two patterns of the table differ in a bit both masks cover (R97). -/
theorem opcodeTable_patterns_differ :
    opcodeTable.Pairwise fun r q => r.pattern &&& q.mask ≠ q.pattern &&& r.mask := by
  decide

/-- The words of a row match it. -/
theorem hit_word {r : Row} (hr : r ∈ opcodeTable) (arg : Nat) : r.hit (r.word arg) = true := by
  obtain ⟨hpattern, -⟩ := row_mask_spec r hr
  have hfree : (BitVec.ofNat 32 arg <<< 16 &&& ~~~r.mask) &&& r.mask = 0#32 := by
    rw [BitVec.and_assoc, BitVec.and_comm (~~~r.mask), BitVec.and_not_self]
    exact BitVec.and_zero
  rw [Row.hit_iff, Row.word, BitVec.and_or_distrib_right, hpattern, hfree, BitVec.or_zero]

/-- A word that matches a row is the row's word with the ARG it holds. -/
theorem word_argField {r : Row} {w : Word} (hr : r ∈ opcodeTable) (hw : r.hit w = true) : r.word (argField w) = w := by
  obtain ⟨-, hfull⟩ := row_mask_spec r hr
  have hfree : 0x000F0000 &&& ~~~r.mask = ~~~r.mask := by
    calc 0x000F0000 &&& ~~~r.mask
      _ = (r.mask ||| 0x000F0000) &&& ~~~r.mask := by
        rw [BitVec.and_or_distrib_right, BitVec.and_not_self]
        exact BitVec.zero_or.symm
      _ = ~~~r.mask := by rw [hfull, BitVec.allOnes_and]
  calc r.word (argField w)
    _ = (w &&& r.mask) ||| (w &&& ~~~r.mask) := by
      rw [Row.word, shifted_argField, BitVec.and_assoc, hfree, (r.hit_iff w).mp hw]
    _ = w := by rw [← BitVec.and_or_distrib_left, BitVec.or_not_self, BitVec.and_allOnes]

/-- No word matches both rows. -/
def Row.Apart (r q : Row) : Prop := ∀ w : Word, ¬ (w &&& r.mask = r.pattern ∧ w &&& q.mask = q.pattern)

theorem Row.apart_of_patterns {r q : Row} (h : r.pattern &&& q.mask ≠ q.pattern &&& r.mask) : r.Apart q := by
  rintro w ⟨hr, hq⟩
  exact h (by rw [← hr, ← hq, BitVec.and_assoc, BitVec.and_assoc, BitVec.and_comm r.mask])

theorem Row.apart_symm : Std.Symm Row.Apart := ⟨fun _ _ h w hw => h w hw.symm⟩

/-- No word matches two rows (R97). -/
theorem opcodeTable_apart : opcodeTable.Pairwise Row.Apart :=
  opcodeTable_patterns_differ.imp Row.apart_of_patterns

/-- Rows that match one word are one row. -/
theorem row_unique {r q : Row} {w : Word} (hr : r ∈ opcodeTable) (hq : q ∈ opcodeTable) (hrw : r.hit w = true)
    (hqw : q.hit w = true) : q = r := by
  have := Row.apart_symm
  by_contra hne
  exact opcodeTable_apart.forall hq hr hne w ⟨(q.hit_iff w).mp hqw, (r.hit_iff w).mp hrw⟩

/-! ## The decoder -/

/-- The decoder answers the command of the row the word matches, with the word's ARG (R99). -/
theorem decode_of_hit {r : Row} {w : Word} (hr : r ∈ opcodeTable) (hw : r.hit w = true) :
    decode w = .ok (r.command (argField w)) := by
  unfold decode
  split
  next q hq => rw [row_unique hr (List.mem_of_find?_eq_some hq) hw (by simpa using List.find?_some hq)]
  next hnone => exact absurd hw (List.find?_eq_none.mp hnone r hr)

/-- The decoder rejects exactly the words of no row (R96, R99). -/
theorem decode_eq_error_iff (w : Word) :
    decode w = .error .illegalCommand ↔ ∀ r ∈ opcodeTable, ¬ r.hit w = true := by
  refine ⟨fun h r hr hw => ?_, fun h => ?_⟩
  · rw [decode_of_hit hr hw] at h
    cases h
  · rw [decode, List.find?_eq_none.mpr h]

/-- What the decoder answers is the command of a row the word matches (R99). -/
theorem exists_hit_of_decode {w : Word} {i : Instr} (h : decode w = .ok i) :
    ∃ r ∈ opcodeTable, r.hit w = true ∧ i = r.command (argField w) := by
  have hne : ¬ ∀ r ∈ opcodeTable, ¬ r.hit w = true := fun hnone => by
    cases h.symm.trans ((decode_eq_error_iff w).mpr hnone)
  push Not at hne
  obtain ⟨r, hr, hw⟩ := hne
  exact ⟨r, hr, hw, Except.ok.inj (h.symm.trans (decode_of_hit hr hw))⟩

/-- What the decoder answers is well-formed and encodes back to the word (R97, R99). -/
theorem encode_of_decode {w : Word} {i : Instr} (h : decode w = .ok i) : i.wellFormed = true ∧ encode i = w := by
  obtain ⟨r, hr, hw, rfl⟩ := exists_hit_of_decode h
  obtain ⟨hwf, henc, -⟩ := row_command_spec r hr _ (cmdField_lt w 16 4)
  exact ⟨hwf, henc.trans (word_argField hr hw)⟩

/-! ## The round trip -/

/-- The encoding of a row's command decodes to it. -/
theorem decode_encode_command {r : Row} {arg : Nat} (hr : r ∈ opcodeTable) (ha : arg < 16) :
    decode (encode (r.command arg)) = .ok (r.command arg) := by
  obtain ⟨-, henc, hback⟩ := row_command_spec r hr arg ha
  rw [henc, decode_of_hit hr (hit_word hr arg), hback]

/-- The same for the component rows with a variable ARG field (R94, R97). -/
theorem decode_encode_argRow {p : Word} {command : Nat → Instr} {arg : Nat}
    (hr : ⟨p, 0xFFF0FFFF, command⟩ ∈ componentRows) (ha : argFits arg = true) :
    decode (encode (command arg)) = .ok (command arg) :=
  decode_encode_command (r := ⟨p, 0xFFF0FFFF, command⟩) (List.mem_append_right _ hr) (of_decide_eq_true ha)

/-- Settles O16: the word of a command without ARG is closed; that of a command with ARG is its row's word. -/
theorem decodeUndoesEncode : Obligations.DecodeUndoesEncode := by
  intro i h
  cases i with
  | keyGenDes arg => exact decode_encode_argRow (p := 0x00000050) (by simp [componentRows]) h
  | keyGenAes arg => exact decode_encode_argRow (p := 0x00001050) (by simp [componentRows]) h
  | keySplitDes arg => exact decode_encode_argRow (p := 0x00000051) (by simp [componentRows]) h
  | keySplitAes arg => exact decode_encode_argRow (p := 0x00001051) (by simp [componentRows]) h
  | keyCombineDes arg => exact decode_encode_argRow (p := 0x00000052) (by simp [componentRows]) h
  | keyCombineAes arg => exact decode_encode_argRow (p := 0x00001052) (by simp [componentRows]) h
  | _ => rfl

/-- Settles O17. -/
theorem decoderFollowsTheTable : Obligations.DecoderFollowsTheTable :=
  ⟨rfl, fun w r hr hw => decode_of_hit hr ((r.hit_iff w).mpr hw),
    fun w h => (decode_eq_error_iff w).mpr fun r hr hw => h r hr ((r.hit_iff w).mp hw),
    opcodeTable_apart, fun _ _ => encode_of_decode⟩

/-- Settles O18: each word is the encoding of its command. -/
theorem decodeReadsSampleWords : Obligations.DecodeReadsSampleWords :=
  ⟨decodeUndoesEncode .aesCbcDec rfl, decodeUndoesEncode .macRetail rfl, decodeUndoesEncode .kdSkMc rfl,
    decodeUndoesEncode .acGenAacVisa rfl, decodeUndoesEncode .pinDecryptIso3 rfl,
    decodeUndoesEncode (.keySplitAes 7) rfl, decodeUndoesEncode .parCheck rfl⟩

/-! ## Legal fields -/

open Laws.EncodeLegal in
/-- The word of a well-formed command is legal by its fields, command by command (R91, R92, R96). -/
theorem legalByFields_encode (i : Instr) : Statement i :=
  Instr.rec (motive := Statement)
    desEcbEnc desEcbDec desCbcEnc desCbcDec desCfbEnc desCfbDec desOfbEnc desOfbDec desCtrEnc desCtrDec aesEcbEnc
    aesEcbDec aesCbcEnc aesCbcDec aesCfbEnc aesCfbDec aesOfbEnc aesOfbDec aesCtrEnc aesCtrDec macCbcDes macCbcAes
    macRetail macCmac cmacSubkeys kdUdk kdSkCommon kdSkVisa kdSkMc dukptIpek dukptKeyset ksnInc acGenArqcCommon
    acGenArqcVisa acGenArqcMc acGenTcCommon acGenTcVisa acGenTcMc acGenAacCommon acGenAacVisa acGenAacMc
    acVerifyCommon acVerifyVisa acVerifyMc arpcM1 arpcM2 pinCreateIso0 pinCreateIso1 pinCreateIso2 pinCreateIso3
    pinCreateIso4 pinExtractIso0 pinExtractIso1 pinExtractIso2 pinExtractIso3 pinExtractIso4 pinDecryptIso0
    pinDecryptIso1 pinDecryptIso2 pinDecryptIso3 pinDecryptIso4 pinTranslate keyGenDes keyGenAes keySplitDes
    keySplitAes keyCombineDes keyCombineAes keyKcvDes keyKcvAes parCheck parFix i

/-- Every word with this OPC, the other fields below their limits and zeros elsewhere, matches a row. -/
def LimitsCovered (opc : Nat) (l : FieldLimits) : Prop :=
  ∀ dir < l.dir, ∀ mode < l.mode, ∀ alg < l.alg, ∀ arg < l.arg, ∀ method < l.method, ∀ ctype < l.ctype,
    opcodeTable.any (fun r => r.hit (Fields.word ⟨opc, dir, mode, alg, arg, method, ctype⟩)) = true

/-- The table has a row for all legal field values of each opcode of the opcode map (R92, R94, R95, R97). -/
theorem limitsCovered_of_opcodeLimits {opc : Nat} {l : FieldLimits} (h : opcodeLimits opc = some l) :
    LimitsCovered opc l := by
  unfold LimitsCovered
  revert h
  fun_cases opcodeLimits opc <;> rintro ⟨⟩
  case case1 h | case2 h | case4 h | case6 h | case7 h | case10 h | case12 h => subst h; decide
  case case3 h => rcases h with rfl | rfl | rfl | rfl <;> decide
  case case5 h | case9 h | case11 h => rcases h with rfl | rfl | rfl <;> decide
  case case8 h | case13 h => rcases h with rfl | rfl <;> decide

/-- A word is legal by its fields exactly when it matches a row (R96). -/
theorem legalByFields_iff (w : Word) : LegalByFields w ↔ ∃ r ∈ opcodeTable, r.hit w = true := by
  constructor
  · rintro ⟨h13, h24, l, hl, hdir, hmode, halg, harg, hmethod, hctype⟩
    have hcovered := limitsCovered_of_opcodeLimits hl _ hdir _ hmode _ halg _ harg _ hmethod _ hctype
    rw [← word_fieldsOf h13 h24]
    exact List.any_eq_true.mp hcovered
  · rintro ⟨r, hr, hw⟩
    obtain ⟨hwf, henc⟩ := encode_of_decode (decode_of_hit hr hw)
    exact henc ▸ legalByFields_encode _ hwf

/-- Settles O15: legality by fields is membership in the table, where the decoder and the completion step are known. -/
theorem illegalWordsEndWithIllegalCommand : Obligations.IllegalWordsEndWithIllegalCommand := by
  have illegal : ∀ w : Word, ¬ LegalByFields w → decode w = .error .illegalCommand := fun w hw =>
    (decode_eq_error_iff w).mpr fun r hr hrw => hw ((legalByFields_iff w).mpr ⟨r, hr, hrw⟩)
  obtain ⟨-, step_illegal, -⟩ := stepRunsTheDecodedCommand
  refine ⟨fun w hw => ?_, illegal, fun s hturn hw => step_illegal s hturn (illegal s.cmd hw)⟩
  obtain ⟨r, hr, hrw⟩ := (legalByFields_iff w).mp hw
  exact ⟨_, decode_of_hit hr hrw⟩

end Sys2Proof
end

section
/-! PROOFS. DES and 3DES: bit permutations and their inverses, the Feistel rounds run backwards, `D` against `E`, and
the 3DES pipeline (R120 to R131). -/

namespace Sys2Proof.Machine

/-! ## Bit permutations -/

section
variable {m n : Nat} {v : BitVec n}

/-- The integer a table collects has the selected bits of `v`, the last entry's bit lowest (R122). -/
theorem testBit_foldl_bits (v : BitVec n) (t : List Nat) (j : Nat) :
    (t.foldl (fun acc i => 2 * acc + (v.getMsbD (i - 1)).toNat) 0).testBit j =
      ((t.reverse.map fun i => v.getMsbD (i - 1))[j]?).getD false := by
  induction t using List.reverseRecOn generalizing j with
  | nil => simp
  | append_singleton r i ih =>
    rw [List.foldl_concat, ← Nat.bit_val, List.reverse_concat]
    cases j with
    | zero => rw [Nat.testBit_bit_zero]; rfl
    | succ j => rw [Nat.testBit_bit_succ, ih]; rfl

/-- Bit `i` of a permuted string is the bit of `v` that entry `i` of the table names (R122). -/
theorem getMsbD_permute {t : List Nat} (ht : t.length = m) {i : Nat} (hi : i < m) :
    (permute m t v).getMsbD i = v.getMsbD (t.getD i 0 - 1) := by
  have hpos : m - 1 - i < m := by omega
  have hrev : t.reverse[m - 1 - i]? = some (t.getD i 0) := by
    have hback : t.length - 1 - (m - 1 - i) = i := by omega
    rw [List.getElem?_reverse (by omega), hback, List.getD_eq_getElem _ _ (by omega)]
    exact List.getElem?_eq_getElem _
  rw [BitVec.getMsbD_eq_getLsbD, permute, BitVec.getLsbD_ofNat, testBit_foldl_bits, List.getElem?_map, hrev]
  simp [hi, hpos]

/-- A table undoes another when the positions they name do. -/
theorem permute_permute {t u : List Nat} (ht : t.length = n) (hu : u.length = n)
    (hinv : ∀ i < n, t.getD i 0 - 1 < n ∧ u.getD (t.getD i 0 - 1) 0 - 1 = i) :
    permute n t (permute n u v) = v := by
  refine BitVec.eq_of_getMsbD_eq fun i hi => ?_
  obtain ⟨hlt, hui⟩ := hinv i hi
  rw [getMsbD_permute ht hi, getMsbD_permute hu hlt, hui]

end

/-- FP undoes IP (R124). -/
theorem permute_fp_ip (v : BitVec 64) : permute 64 fp (permute 64 ip v) = v :=
  permute_permute rfl rfl (by decide)

/-- IP undoes FP (R124). -/
theorem permute_ip_fp (v : BitVec 64) : permute 64 ip (permute 64 fp v) = v :=
  permute_permute rfl rfl (by decide)

/-! ## The rounds of DES -/

theorem feistel_append (ks ks' : List (BitVec 48)) (l r : BitVec 32) :
    feistel (ks ++ ks') l r = feistel ks' (feistel ks l r).1 (feistel ks l r).2 := by
  induction ks generalizing l r with
  | nil => rfl
  | cons k ks ih => exact ih r (l ^^^ desRound r k)

/-- The rounds with the keys in reverse order, on the swapped halves, undo the rounds (R126, R127). -/
theorem feistel_reverse (ks : List (BitVec 48)) (l r : BitVec 32) :
    feistel ks.reverse (feistel ks l r).2 (feistel ks l r).1 = (r, l) := by
  induction ks generalizing l r with
  | nil => rfl
  | cons k ks ih =>
    simp only [List.reverse_cons, feistel_append, feistel, ih, BitVec.xor_assoc, BitVec.xor_self, BitVec.xor_zero]

/-- DES with the round keys in reverse order undoes DES (R127). -/
theorem desCore_reverse (ks : List (BitVec 48)) (x : BitVec 64) : desCore ks.reverse (desCore ks x) = x := by
  have hjoin : ∀ v : BitVec 64, v.extractLsb' 32 32 ++ v.extractLsb' 0 32 = v := fun v => by
    rw [BitVec.extractLsb'_append_extractLsb'_eq_extractLsb' (by rfl)]
    exact BitVec.extractLsb'_eq_self
  simp only [desCore, permute_ip_fp, BitVec.extractLsb'_append_eq_left, BitVec.extractLsb'_append_eq_right,
    feistel_reverse, hjoin, permute_fp_ip]

/-! ## DES and 3DES on byte strings -/

/-- The string of a 64-bit value reads back as that value (R122). -/
theorem bits64_be (v : BitVec 64) : bits64 (be 8 v.toNat) = v := by
  have hlt : v.toNat < 256 ^ 8 := v.isLt
  rw [bits64, int_be, Nat.mod_eq_of_lt hlt, BitVec.ofNat_toNat, BitVec.setWidth_eq]

theorem be_bits64 {x : Bytes} (hx : x.length = 8) : be 8 (bits64 x).toNat = x := by
  have hlt : int x < 2 ^ 64 := by simpa [hx] using int_lt x
  rw [bits64, BitVec.toNat_ofNat, Nat.mod_eq_of_lt hlt, be_int x 8 hx]

/-- `DES_D(K, DES_E(K, x)) = x` (R120). -/
theorem desD_desE (key : Bytes) {x : Bytes} (hx : x.length = 8) : desD key (desE key x) = x := by
  rw [desD, desE, bits64_be, desCore_reverse, be_bits64 hx]

/-- `DES_E(K, DES_D(K, x)) = x` (R120). -/
theorem desE_desD (key : Bytes) {x : Bytes} (hx : x.length = 8) : desE key (desD key x) = x := by
  have hback := desCore_reverse (desKeys (bits64 key)).reverse (bits64 x)
  rw [List.reverse_reverse] at hback
  rw [desE, desD, bits64_be, hback, be_bits64 hx]

/-- The stages of 3DES are undone from the last to the first (R130). -/
theorem tdesD_tdesE (key : Bytes) {x : Bytes} (hx : x.length = 8) : tdesD key (tdesE key x) = x := by
  simp only [tdesD, tdesE]
  rw [desD_desE _ (desD_length _ _), desE_desD _ (desE_length _ _), desD_desE _ hx]

theorem tdesE_tdesD (key : Bytes) {x : Bytes} (hx : x.length = 8) : tdesE key (tdesD key x) = x := by
  simp only [tdesD, tdesE]
  rw [desE_desD _ (desE_length _ _), desD_desE _ (desD_length _ _), desE_desD _ hx]

section
variable {k1 k2 k3 : Bytes} (h1 : k1.length = 8) (h2 : k2.length = 8)
include h1 h2

/-- A 16-byte key is K1‖K2‖K1 (R129). -/
theorem tdesParts_two : tdesParts (k1 ++ k2) = (k1, k2, k1) := by
  simp [tdesParts, slice, h1, h2]

theorem tdesParts_three (h3 : k3.length = 8) : tdesParts (k1 ++ k2 ++ k3) = (k1, k2, k3) := by
  have hdrop : k1.drop 16 = [] := List.drop_eq_nil_of_le (by omega)
  simp [tdesParts, slice, List.drop_append, hdrop, h1, h2, h3]

/-- A two-key key acts as its three-key expansion (R129). -/
theorem tdesParts_two_eq_three : tdesParts (k1 ++ k2) = tdesParts (k1 ++ k2 ++ k1) := by
  rw [tdesParts_two h1 h2, tdesParts_three h1 h2 h1]

end

/-- Settles O25: each key is taken apart by its length; with K1 = K2 the second stage undoes the first. -/
theorem tripleDesPipeline : Obligations.TripleDesPipeline := by
  intro k1 k2 k3 x h1 h2 h3 hx
  have len2 : (k1 ++ k2).length ≠ 8 := by simp [h1, h2]
  have len3 : ∀ k : Bytes, k.length = 8 → (k1 ++ k2 ++ k).length ≠ 8 := fun k hk => by simp [h1, h2, hk]
  refine ⟨if_pos h1, if_pos h1, ?_, ?_, ?_, ?_, ?_, ?_⟩
  · simp only [blockE, if_neg (len3 k3 h3), tdesE, tdesParts_three h1 h2 h3]
  · simp only [blockD, if_neg (len3 k3 h3), tdesD, tdesParts_three h1 h2 h3]
  · simp only [blockE, if_neg len2, if_neg (len3 k1 h1), tdesE, tdesParts_two_eq_three h1 h2]
  · simp only [blockD, if_neg len2, if_neg (len3 k1 h1), tdesD, tdesParts_two_eq_three h1 h2]
  · simp only [tdesE, tdesParts_two h1 h1, desD_desE k1 hx]
  · simp only [tdesD, tdesParts_two h1 h1, desE_desD k1 hx]

end Sys2Proof.Machine
end

section
/-! PROOFS. AES: the steps of a round and their inverses, the rounds run backwards, and `D` against `E` for every block
function (R120, R132 to R138). -/

namespace Sys2Proof.Machine

/-! ## Multiplication in GF(2^8) -/

/-- `xtime` distributes over XOR: it is a shift and an XOR with what bit 7 selects (R133). -/
theorem xtime_xor (a b : Byte) : xtime (a ^^^ b) = xtime a ^^^ xtime b := by
  have hxtime : ∀ c : Byte, xtime c = c <<< 1 ^^^ bif c.msb then 0x1B else 0#8 := fun c => by
    unfold xtime; cases c.msb <;> simp
  have hmsb : ∀ p q : Bool, (bif p ^^ q then 0x1B else 0#8) =
      (bif p then 0x1B else 0#8) ^^^ bif q then 0x1B else 0#8 := by decide
  rw [hxtime, hxtime a, hxtime b, BitVec.msb_xor, hmsb, BitVec.shiftLeft_xor_distrib]
  ac_rfl

theorem xtimes_xor (i : Nat) (a b : Byte) : xtimes i (a ^^^ b) = xtimes i a ^^^ xtimes i b := by
  induction i generalizing a b with
  | zero => rfl
  | succ i ih => simp only [xtimes, xtime_xor, ih]

/-- Summing the selected `xtime^i` distributes over XOR. -/
theorem foldl_xtimes_xor (a b c : Byte) (l : List Nat) (p q : Byte) :
    l.foldl (fun acc i => if c.getLsbD i then acc ^^^ xtimes i (a ^^^ b) else acc) (p ^^^ q) =
      l.foldl (fun acc i => if c.getLsbD i then acc ^^^ xtimes i a else acc) p ^^^
        l.foldl (fun acc i => if c.getLsbD i then acc ^^^ xtimes i b else acc) q := by
  induction l generalizing p q with
  | nil => rfl
  | cons i l ih =>
    have hacc : p ^^^ q ^^^ xtimes i (a ^^^ b) = (p ^^^ xtimes i a) ^^^ (q ^^^ xtimes i b) := by
      rw [xtimes_xor]; ac_rfl
    simp only [List.foldl_cons]
    split
    · rw [hacc, ih]
    · exact ih p q

/-- `mul(·, c)` distributes over XOR (R133). -/
theorem gmul_xor (a b c : Byte) : gmul (a ^^^ b) c = gmul a c ^^^ gmul b c := foldl_xtimes_xor a b c (List.range 8) 0 0

theorem gmul_one (a : Byte) : gmul a 1 = a := by
  revert a; decide +kernel

/-! ## MixColumns -/

/-- One byte of a mixed column: the products of its bytes with four coefficients (R137, R138). -/
def mixByte (c0 c1 c2 c3 a0 a1 a2 a3 : Byte) : Byte := gmul a0 c0 ^^^ gmul a1 c1 ^^^ gmul a2 c2 ^^^ gmul a3 c3

section
variable (a0 a1 a2 a3 : Byte)

/-- Each byte of a mixed column takes the column rotated to start at that byte (R137). -/
theorem mixColumns_cons (r : Bytes) : mixColumns (a0 :: a1 :: a2 :: a3 :: r) =
    mixByte 2 3 1 1 a0 a1 a2 a3 :: mixByte 2 3 1 1 a1 a2 a3 a0 :: mixByte 2 3 1 1 a2 a3 a0 a1 ::
      mixByte 2 3 1 1 a3 a0 a1 a2 :: mixColumns r := by
  simp only [mixColumns, mixByte, gmul_one, List.cons.injEq, and_true, true_and]
  refine ⟨?_, ?_, ?_⟩ <;> ac_rfl

/-- InvMixColumns takes the same rotations, with its own coefficients (R138). -/
theorem invMixColumns_cons (r : Bytes) : invMixColumns (a0 :: a1 :: a2 :: a3 :: r) =
    mixByte 14 11 13 9 a0 a1 a2 a3 :: mixByte 14 11 13 9 a1 a2 a3 a0 :: mixByte 14 11 13 9 a2 a3 a0 a1 ::
      mixByte 14 11 13 9 a3 a0 a1 a2 :: invMixColumns r := by
  simp only [invMixColumns, mixByte, List.cons.injEq, and_true, true_and]
  refine ⟨?_, ?_, ?_⟩ <;> ac_rfl

/-- Mixing a mixed column, sorted by the bytes of the column: each contributes on its own. -/
theorem mixByte_mixByte (c0 c1 c2 c3 d0 d1 d2 d3 : Byte) :
    mixByte c0 c1 c2 c3 (mixByte d0 d1 d2 d3 a0 a1 a2 a3) (mixByte d0 d1 d2 d3 a1 a2 a3 a0)
        (mixByte d0 d1 d2 d3 a2 a3 a0 a1) (mixByte d0 d1 d2 d3 a3 a0 a1 a2) =
      mixByte c0 c1 c2 c3 (gmul a0 d0) (gmul a0 d3) (gmul a0 d2) (gmul a0 d1) ^^^
        mixByte c0 c1 c2 c3 (gmul a1 d1) (gmul a1 d0) (gmul a1 d3) (gmul a1 d2) ^^^
        mixByte c0 c1 c2 c3 (gmul a2 d2) (gmul a2 d1) (gmul a2 d0) (gmul a2 d3) ^^^
        mixByte c0 c1 c2 c3 (gmul a3 d3) (gmul a3 d2) (gmul a3 d1) (gmul a3 d0) := by
  simp only [mixByte, gmul_xor]
  ac_rfl

/-- The coefficients of InvMixColumns undo those of MixColumns: the first byte comes back, the others cancel. -/
theorem mixByte_inv_mix :
    mixByte 14 11 13 9 (mixByte 2 3 1 1 a0 a1 a2 a3) (mixByte 2 3 1 1 a1 a2 a3 a0) (mixByte 2 3 1 1 a2 a3 a0 a1)
      (mixByte 2 3 1 1 a3 a0 a1 a2) = a0 := by
  have same : ∀ a, mixByte 14 11 13 9 (gmul a 2) (gmul a 1) (gmul a 1) (gmul a 3) = a := by decide +kernel
  have next1 : ∀ a, mixByte 14 11 13 9 (gmul a 3) (gmul a 2) (gmul a 1) (gmul a 1) = 0#8 := by decide +kernel
  have next2 : ∀ a, mixByte 14 11 13 9 (gmul a 1) (gmul a 3) (gmul a 2) (gmul a 1) = 0#8 := by decide +kernel
  have next3 : ∀ a, mixByte 14 11 13 9 (gmul a 1) (gmul a 1) (gmul a 3) (gmul a 2) = 0#8 := by decide +kernel
  rw [mixByte_mixByte, same, next1, next2, next3]
  simp only [BitVec.xor_zero]

/-- The coefficients of MixColumns undo those of InvMixColumns. -/
theorem mixByte_mix_inv :
    mixByte 2 3 1 1 (mixByte 14 11 13 9 a0 a1 a2 a3) (mixByte 14 11 13 9 a1 a2 a3 a0) (mixByte 14 11 13 9 a2 a3 a0 a1)
      (mixByte 14 11 13 9 a3 a0 a1 a2) = a0 := by
  have same : ∀ a, mixByte 2 3 1 1 (gmul a 14) (gmul a 9) (gmul a 13) (gmul a 11) = a := by decide +kernel
  have next1 : ∀ a, mixByte 2 3 1 1 (gmul a 11) (gmul a 14) (gmul a 9) (gmul a 13) = 0#8 := by decide +kernel
  have next2 : ∀ a, mixByte 2 3 1 1 (gmul a 13) (gmul a 11) (gmul a 14) (gmul a 9) = 0#8 := by decide +kernel
  have next3 : ∀ a, mixByte 2 3 1 1 (gmul a 9) (gmul a 13) (gmul a 11) (gmul a 14) = 0#8 := by decide +kernel
  rw [mixByte_mixByte, same, next1, next2, next3]
  simp only [BitVec.xor_zero]

end

/-- InvMixColumns undoes MixColumns on whole columns (R138). -/
theorem invMixColumns_mixColumns (n : Nat) (s : Bytes) (h : s.length = 4 * n) : invMixColumns (mixColumns s) = s := by
  induction n generalizing s with
  | zero => rw [List.length_eq_zero_iff.mp h]; rfl
  | succ n ih =>
    match s, h with
    | a0 :: a1 :: a2 :: a3 :: r, h =>
      have hr : r.length = 4 * n := by simp only [List.length_cons] at h; omega
      simp only [mixColumns_cons, invMixColumns_cons, mixByte_inv_mix, ih r hr]

theorem mixColumns_invMixColumns (n : Nat) (s : Bytes) (h : s.length = 4 * n) : mixColumns (invMixColumns s) = s := by
  induction n generalizing s with
  | zero => rw [List.length_eq_zero_iff.mp h]; rfl
  | succ n ih =>
    match s, h with
    | a0 :: a1 :: a2 :: a3 :: r, h =>
      have hr : r.length = 4 * n := by simp only [List.length_cons] at h; omega
      simp only [mixColumns_cons, invMixColumns_cons, mixByte_mix_inv, ih r hr]

/-! ## SubBytes and ShiftRows -/

/-- INV_SBOX undoes SBOX (R135). -/
theorem invSub_sub (b : Byte) : invSub (sub b) = b := by
  revert b; decide +kernel

theorem sub_invSub (b : Byte) : sub (invSub b) = b := by
  revert b; decide +kernel

/-- Choosing 16 bytes by position twice gives the string back when the positions undo each other. -/
theorem map_getD_map_getD {f g : Nat → Nat} (h : ∀ i < 16, f i < 16 ∧ g (f i) = i) {s : Bytes} (hs : s.length = 16) :
    (List.range 16).map (fun i => ((List.range 16).map fun j => s.getD (g j) 0).getD (f i) 0) = s := by
  refine List.ext_getElem (by simp [hs]) fun i hi _ => ?_
  obtain ⟨hf, hg⟩ := h i (by simpa using hi)
  have hi' : i < s.length := by simpa [hs] using hi
  simp [hf, hg, hi']

/-- InvShiftRows undoes ShiftRows (R138). -/
theorem invShiftRows_shiftRows {s : Bytes} (hs : s.length = 16) : invShiftRows (shiftRows s) = s :=
  map_getD_map_getD (f := fun i => 4 * ((i / 4 + 4 - i % 4) % 4) + i % 4)
    (g := fun i => 4 * ((i / 4 + i % 4) % 4) + i % 4) (by decide) hs

theorem shiftRows_invShiftRows {s : Bytes} (hs : s.length = 16) : shiftRows (invShiftRows s) = s :=
  map_getD_map_getD (f := fun i => 4 * ((i / 4 + i % 4) % 4) + i % 4)
    (g := fun i => 4 * ((i / 4 + 4 - i % 4) % 4) + i % 4) (by decide) hs

/-- SubBytes and ShiftRows, the part of a round without MixColumns and the key (R137). -/
def subShift (s : Bytes) : Bytes := shiftRows (s.map sub)

/-- InvShiftRows and InvSubBytes (R138). -/
def invSubShift (s : Bytes) : Bytes := (invShiftRows s).map invSub

@[simp] theorem subShift_length (s : Bytes) : (subShift s).length = 16 := shiftRows_length _
@[simp] theorem invSubShift_length (s : Bytes) : (invSubShift s).length = 16 := by simp [invSubShift]

theorem invSubShift_subShift {s : Bytes} (hs : s.length = 16) : invSubShift (subShift s) = s := by
  rw [invSubShift, subShift, invShiftRows_shiftRows (by simpa using hs), List.map_map,
    (funext invSub_sub : invSub ∘ sub = id), List.map_id]

theorem subShift_invSubShift {s : Bytes} (hs : s.length = 16) : subShift (invSubShift s) = s := by
  rw [subShift, invSubShift, List.map_map, (funext sub_invSub : sub ∘ invSub = id), List.map_id,
    shiftRows_invShiftRows hs]

/-! ## The rounds -/

/-- A round of encryption before the last (R137). -/
def encRound (s k : Bytes) : Bytes := xorBytes (mixColumns (subShift s)) k

/-- A round of decryption before the last (R138). -/
def decRound (s k : Bytes) : Bytes := invMixColumns (xorBytes (invSubShift s) k)

theorem encRound_length (s : Bytes) {k : Bytes} (hk : k.length = 16) : (encRound s k).length = 16 := by
  simp [encRound, mixColumns_length _ 4, hk]

theorem decRound_length (s : Bytes) {k : Bytes} (hk : k.length = 16) : (decRound s k).length = 16 :=
  invMixColumns_length _ 4 (by simp [hk])

/-- The rounds of encryption are full rounds and a last one without MixColumns (R137). -/
theorem aesEncRounds_concat (ks : List Bytes) (kn s : Bytes) :
    aesEncRounds (ks ++ [kn]) s = xorBytes (subShift (ks.foldl encRound s)) kn := by
  induction ks generalizing s with
  | nil => rfl
  | cons k ks ih =>
    cases ks with
    | nil => rfl
    | cons k2 ks => exact ih (encRound s k)

/-- The rounds of decryption are full rounds and a last one without InvMixColumns (R138). -/
theorem aesDecRounds_concat (ks : List Bytes) (kn s : Bytes) :
    aesDecRounds (ks ++ [kn]) s = xorBytes (invSubShift (ks.foldl decRound s)) kn := by
  induction ks generalizing s with
  | nil => rfl
  | cons k ks ih =>
    cases ks with
    | nil => rfl
    | cons k2 ks => exact ih (decRound s k)

/-- A round of decryption undoes one of encryption one `subShift` ahead: decryption starts by undoing the `subShift` of
the last round, which has no MixColumns (R137, R138). -/
theorem decRound_encRound {s k : Bytes} (hk : k.length = 16) : decRound (subShift (encRound s k)) k = subShift s := by
  rw [decRound, invSubShift_subShift (encRound_length s hk), encRound,
    xorBytes_xorBytes_cancel _ _ (by simp [mixColumns_length _ 4, hk]), invMixColumns_mixColumns 4 _ (by simp)]

theorem encRound_decRound {s k : Bytes} (hk : k.length = 16) :
    encRound (invSubShift (decRound s k)) k = invSubShift s := by
  rw [encRound, subShift_invSubShift (decRound_length s hk), decRound, mixColumns_invMixColumns 4 _ (by simp [hk]),
    xorBytes_xorBytes_cancel _ _ (by simp [hk])]

/-- Rounds `g` undo rounds `f` when taken over the keys in reverse order, with `h` between the two directions (R138). -/
theorem foldl_reverse_undo {f g : Bytes → Bytes → Bytes} {h : Bytes → Bytes}
    (undo : ∀ s k : Bytes, k.length = 16 → g (h (f s k)) k = h s) (ks : List Bytes) (hks : ∀ k ∈ ks, k.length = 16)
    (s : Bytes) : ks.reverse.foldl g (h (ks.foldl f s)) = h s := by
  induction ks generalizing s with
  | nil => rfl
  | cons k ks ih =>
    obtain ⟨hk, hks⟩ := List.forall_mem_cons.mp hks
    rw [List.reverse_cons, List.foldl_concat, List.foldl_cons, ih hks, undo s k hk]

/-! ## AES -/

section
variable {key x k0 kn : Bytes} {ks : List Bytes}

/-- The round keys of a legal key are a first, a last, and the keys of the full rounds between them (R136, R137). -/
theorem aesKeys_ends (hk : key.length = 16 ∨ key.length = 24 ∨ key.length = 32) :
    ∃ k0 ks kn, aesKeys key = k0 :: (ks ++ [kn]) ∧ k0.length = 16 ∧ kn.length = 16 ∧ ∀ k ∈ ks, k.length = 16 := by
  obtain ⟨hlen, h16⟩ := aesKeys_spec key hk
  match h : aesKeys key with
  | [] => simp [h] at hlen
  | k0 :: r =>
    have hr : r ≠ [] := by
      rintro rfl
      simp only [h, List.length_singleton] at hlen
      omega
    rw [h] at h16
    refine ⟨k0, r.dropLast, r.getLast hr, by rw [List.dropLast_append_getLast], h16 _ (by simp), h16 _ (by simp), ?_⟩
    exact fun k hk => h16 k (List.mem_cons_of_mem _ (List.mem_of_mem_dropLast hk))

/-- `AES_E` as key additions around the full rounds and the last (R137). -/
theorem aesE_of_keys (h : aesKeys key = k0 :: (ks ++ [kn])) :
    aesE key x = xorBytes (subShift (ks.foldl encRound (xorBytes x k0))) kn := by
  simp only [aesE, h, aesEncRounds_concat]

/-- `AES_D` takes the round keys in reverse order (R138). -/
theorem aesD_of_keys (h : aesKeys key = k0 :: (ks ++ [kn])) :
    aesD key x = xorBytes (invSubShift (ks.reverse.foldl decRound (xorBytes x kn))) k0 := by
  have hrev : (aesKeys key).reverse = kn :: (ks.reverse ++ [k0]) := by simp [h]
  simp only [aesD, hrev, aesDecRounds_concat]

/-- `AES_D(K, AES_E(K, x)) = x` (R120). -/
theorem aesD_aesE (hk : key.length = 16 ∨ key.length = 24 ∨ key.length = 32) (hx : x.length = 16) :
    aesD key (aesE key x) = x := by
  obtain ⟨k0, ks, kn, hkeys, h0, hn, hks⟩ := aesKeys_ends hk
  rw [aesD_of_keys hkeys, aesE_of_keys hkeys, xorBytes_xorBytes_cancel _ _ (by simp [hn]),
    foldl_reverse_undo (fun _ _ => decRound_encRound) ks hks, invSubShift_subShift (by simp [hx, h0]),
    xorBytes_xorBytes_cancel _ _ (by simp [hx, h0])]

/-- `AES_E(K, AES_D(K, x)) = x` (R120). -/
theorem aesE_aesD (hk : key.length = 16 ∨ key.length = 24 ∨ key.length = 32) (hx : x.length = 16) :
    aesE key (aesD key x) = x := by
  obtain ⟨k0, ks, kn, hkeys, h0, hn, hks⟩ := aesKeys_ends hk
  have hback := foldl_reverse_undo (fun _ _ => encRound_decRound) ks.reverse (by simpa using hks) (xorBytes x kn)
  rw [List.reverse_reverse] at hback
  rw [aesE_of_keys hkeys, aesD_of_keys hkeys, xorBytes_xorBytes_cancel _ _ (by simp [h0]), hback,
    subShift_invSubShift (by simp [hx, hn]), xorBytes_xorBytes_cancel _ _ (by simp [hx, hn])]

end

/-! ## Every block function -/

/-- Settles O24: by family, and for DES by key length. -/
theorem blockFunctionsInvert : Obligations.BlockFunctionsInvert := by
  intro alg key x hk hx
  refine ⟨blockE_length hk hx, blockD_length hk hx, ?_⟩
  cases alg with
  | des =>
    unfold blockE blockD
    by_cases h8 : key.length = 8
    · simp only [if_pos h8]
      exact ⟨desD_desE key hx, desE_desD key hx⟩
    · simp only [if_neg h8]
      exact ⟨tdesD_tdesE key hx, tdesE_tdesD key hx⟩
  | aes =>
    have haes : key.length = 16 ∨ key.length = 24 ∨ key.length = 32 := by simpa [LegalKey] using hk
    exact ⟨aesD_aesE haes hx, aesE_aesD haes hx⟩

end Sys2Proof.Machine
end

section
/-! PROOFS. The cipher modes as one recursion: what a mode makes of a data block and a register, and the register of the
next block. From it the equations of each mode, the three checks, and the round trip of R164 (R150 to R166). -/

namespace Sys2Proof.Machine

/-! ## One block of a mode -/

/-- The output block of data block `x` when the register, the IV at first, holds `r` (R152 to R162). -/
def modeOut (m : Mode) (d : Dir) (alg : Alg) (key r x : Bytes) : Bytes :=
  match m, d with
  | .ecb, .enc => blockE alg key x
  | .ecb, .dec => blockD alg key x
  | .cbc, .enc => blockE alg key (xorBytes x r)
  | .cbc, .dec => xorBytes (blockD alg key x) r
  | .cfb, _ => xorBytes x (blockE alg key r)
  | .ofb, _ => xorBytes x (blockE alg key r)
  | .ctr, _ => xorBytes x (blockE alg key r)

/-- The register behind data block `x`: the ciphertext block in CBC and CFB, the next stream block in OFB, the next
counter block in CTR (R154 to R162). -/
def modeNext (m : Mode) (d : Dir) (alg : Alg) (key r x : Bytes) : Bytes :=
  match m, d with
  | .ecb, _ => r
  | .cbc, .enc => modeOut .cbc .enc alg key r x
  | .cbc, .dec => x
  | .cfb, .enc => modeOut .cfb .enc alg key r x
  | .cfb, .dec => x
  | .ofb, _ => blockE alg key r
  | .ctr, _ => incBlock r

/-- The register before block `i` of the data `X 0, X 1, ..`. -/
def modeReg (m : Mode) (d : Dir) (alg : Alg) (key r : Bytes) (X : Nat → Bytes) : Nat → Bytes
  | 0 => r
  | i + 1 => modeNext m d alg key (modeReg m d alg key r X i) (X i)

/-- The other direction. -/
def Dir.other : Dir → Dir
  | .enc => .dec
  | .dec => .enc

section
variable {alg : Alg} {m : Mode} {d : Dir} {key r x : Bytes} {X : Nat → Bytes} {xs : List Bytes} {i : Nat}

theorem modeBlocks_nil : modeBlocks m d alg key r [] = [] := by cases m <;> cases d <;> rfl

/-- Every mode is the recursion of `modeOut` and `modeNext` over the data. -/
theorem modeBlocks_cons : modeBlocks m d alg key r (x :: xs) =
    modeOut m d alg key r x :: modeBlocks m d alg key (modeNext m d alg key r x) xs := by
  cases m <;> cases d <;> rfl

/-- The register after the first block is where the rest of the data starts. -/
theorem modeReg_succ : modeReg m d alg key r X (i + 1) =
    modeReg m d alg key (modeNext m d alg key r (X 0)) (fun j => X (j + 1)) i := by
  induction i with
  | zero => rfl
  | succ i ih => rw [modeReg, ih, modeReg]

/-- Output block `i` comes from data block `i` and the register before it. -/
theorem modeBlocks_getD (hX : ∀ j < xs.length, xs.getD j [] = X j) (hi : i < xs.length) :
    (modeBlocks m d alg key r xs).getD i [] = modeOut m d alg key (modeReg m d alg key r X i) (X i) := by
  induction xs generalizing r X i with
  | nil => simp at hi
  | cons x xs ih =>
    have h0 : x = X 0 := hX 0 (by simp)
    rw [modeBlocks_cons]
    cases i with
    | zero => rw [List.getD_cons_zero, h0, modeReg]
    | succ i =>
      rw [List.getD_cons_succ, modeReg_succ, ← h0]
      exact ih (fun j hj => hX (j + 1) (by simpa using hj)) (by simpa using hi)

/-- CBC and CFB encryption chain on the output block before (R154, R156). -/
theorem modeReg_enc (hm : m = .cbc ∨ m = .cfb) {Y : Nat → Bytes}
    (hY : ∀ j < i, Y j = modeOut m .enc alg key (modeReg m .enc alg key r X j) (X j)) :
    modeReg m .enc alg key r X i = if i = 0 then r else Y (i - 1) := by
  cases i with
  | zero => rfl
  | succ i =>
    rw [if_neg i.succ_ne_zero, Nat.add_sub_cancel, hY i i.lt_succ_self, modeReg]
    rcases hm with rfl | rfl <;> rfl

/-- CBC and CFB decryption chain on the input block before (R155, R157). -/
theorem modeReg_dec (hm : m = .cbc ∨ m = .cfb) :
    modeReg m .dec alg key r X i = if i = 0 then r else X (i - 1) := by
  cases i with
  | zero => rfl
  | succ i => rcases hm with rfl | rfl <;> rfl

end

/-! ## Blocks stay blocks, and the other direction undoes -/

section
variable {alg : Alg} {m : Mode} {key r x : Bytes} {xs : List Bytes} (d : Dir) (hk : LegalKey alg key.length)
  (hr : m = .ecb ∨ r.length = alg.block)

section
variable (hx : x.length = alg.block)
include hk hr hx

theorem modeOut_length : (modeOut m d alg key r x).length = alg.block := by
  have hlen : m ≠ .ecb → r.length = alg.block := hr.resolve_left
  cases m with
  | ecb => cases d with
    | enc => exact blockE_length hk hx
    | dec => exact blockD_length hk hx
  | cbc => cases d with
    | enc => exact blockE_length hk (by simp [hx, hlen])
    | dec => simp [modeOut, blockD_length hk hx, hlen]
  | cfb | ofb | ctr => simp [modeOut, hx, blockE_length hk (hlen (by decide))]

/-- The next register is a block again, where the mode has one. -/
theorem modeNext_length : m = .ecb ∨ (modeNext m d alg key r x).length = alg.block := by
  have hlen : m ≠ .ecb → r.length = alg.block := hr.resolve_left
  cases m with
  | ecb => exact .inl rfl
  | cbc | cfb => cases d with
    | enc => exact .inr (modeOut_length .enc hk hr hx)
    | dec => exact .inr hx
  | ofb => exact .inr (blockE_length hk (hlen (by decide)))
  | ctr => exact .inr ((incBlock_spec r).1.trans (hlen (by decide)))

/-- With the same register the other direction gives the data block back (R164). -/
theorem modeOut_other : modeOut m d.other alg key r (modeOut m d alg key r x) = x := by
  have hlen : m ≠ .ecb → r.length = alg.block := hr.resolve_left
  have hinv : ∀ {y : Bytes}, y.length = alg.block →
      blockD alg key (blockE alg key y) = y ∧ blockE alg key (blockD alg key y) = y :=
    fun hy => (blockFunctionsInvert alg key _ hk hy).2.2
  cases m with
  | ecb => cases d with
    | enc => exact (hinv hx).1
    | dec => exact (hinv hx).2
  | cbc =>
    have hr : r.length = alg.block := hlen (by decide)
    cases d with
    | enc =>
      show xorBytes (blockD alg key (blockE alg key (xorBytes x r))) r = x
      rw [(hinv (by simp [hx, hr])).1, xorBytes_xorBytes_cancel _ _ (hx.trans hr.symm).le]
    | dec =>
      show blockE alg key (xorBytes (xorBytes (blockD alg key x) r) r) = x
      rw [xorBytes_xorBytes_cancel _ _ ((blockD_length hk hx).trans hr.symm).le, (hinv hx).2]
  | cfb | ofb | ctr =>
    exact xorBytes_xorBytes_cancel _ _ (hx.trans (blockE_length hk (hlen (by decide))).symm).le

/-- Both directions go on with the same register (R164). -/
theorem modeNext_other : modeNext m d.other alg key r (modeOut m d alg key r x) = modeNext m d alg key r x := by
  cases d with
  | enc => cases m <;> rfl
  | dec => cases m with
    | cbc | cfb => exact modeOut_other .dec hk hr hx
    | ecb | ofb | ctr => rfl

end

section
variable (hx : ∀ x ∈ xs, x.length = alg.block)
include hk hr hx

theorem modeBlocks_mem_length_eq : ∀ y ∈ modeBlocks m d alg key r xs, y.length = alg.block := by
  induction xs generalizing r with
  | nil => simp [modeBlocks_nil]
  | cons x xs ih =>
    obtain ⟨hx, hxs⟩ := List.forall_mem_cons.mp hx
    rw [modeBlocks_cons]
    exact List.forall_mem_cons.mpr ⟨modeOut_length d hk hr hx, ih (modeNext_length d hk hr hx) hxs⟩

/-- A mode's other direction on its output blocks gives the data blocks back (R164). -/
theorem modeBlocks_other : modeBlocks m d.other alg key r (modeBlocks m d alg key r xs) = xs := by
  induction xs generalizing r with
  | nil => simp only [modeBlocks_nil]
  | cons x xs ih =>
    obtain ⟨hx, hxs⟩ := List.forall_mem_cons.mp hx
    rw [modeBlocks_cons, modeBlocks_cons, modeOut_other d hk hr hx, modeNext_other d hk hr hx,
      ih (modeNext_length d hk hr hx) hxs]

end

end

theorem Alg.block_pos (alg : Alg) : 0 < alg.block := by cases alg <;> decide

/-- Cutting a concatenation of blocks gives the blocks back. -/
theorem blocksOf_of_flatten {b : Nat} {l : List Bytes} (h : ∀ x ∈ l, x.length = b) :
    blocksOf b l.length l.flatten = l := by
  induction l with
  | nil => rfl
  | cons x l ih =>
    obtain ⟨rfl, hl⟩ := List.forall_mem_cons.mp h
    rw [List.length_cons, List.flatten_cons, blocksOf, List.take_left, List.drop_left, ih hl]

/-! ## The commands -/

/-- The cipher command of a family, mode and direction (R97). -/
def cipherInstr (alg : Alg) (m : Mode) (d : Dir) : Instr :=
  match alg, m, d with
  | .des, .ecb, .enc => .desEcbEnc
  | .des, .ecb, .dec => .desEcbDec
  | .des, .cbc, .enc => .desCbcEnc
  | .des, .cbc, .dec => .desCbcDec
  | .des, .cfb, .enc => .desCfbEnc
  | .des, .cfb, .dec => .desCfbDec
  | .des, .ofb, .enc => .desOfbEnc
  | .des, .ofb, .dec => .desOfbDec
  | .des, .ctr, .enc => .desCtrEnc
  | .des, .ctr, .dec => .desCtrDec
  | .aes, .ecb, .enc => .aesEcbEnc
  | .aes, .ecb, .dec => .aesEcbDec
  | .aes, .cbc, .enc => .aesCbcEnc
  | .aes, .cbc, .dec => .aesCbcDec
  | .aes, .cfb, .enc => .aesCfbEnc
  | .aes, .cfb, .dec => .aesCfbDec
  | .aes, .ofb, .enc => .aesOfbEnc
  | .aes, .ofb, .dec => .aesOfbDec
  | .aes, .ctr, .enc => .aesCtrEnc
  | .aes, .ctr, .dec => .aesCtrDec

theorem exec_cipherInstr (alg : Alg) (m : Mode) (d : Dir) (s : State) :
    exec (cipherInstr alg m d) s = cipher alg m d s := by
  cases alg <;> cases m <;> cases d <;> rfl

theorem eq_cipherInstr_of_mem_table {c : Instr} {alg : Alg} {m : Mode} (h : (c, alg, m) ∈ cipherTable) :
    ∃ d, c = cipherInstr alg m d := by
  have hall : ∀ p ∈ cipherTable, p.1 = cipherInstr p.2.1 p.2.2 .enc ∨ p.1 = cipherInstr p.2.1 p.2.2 .dec := by decide
  rcases hall _ h with hc | hc
  · exact ⟨.enc, hc⟩
  · exact ⟨.dec, hc⟩

theorem eq_cipherInstr_of_mem_pairs {enc dec : Instr} {alg : Alg} {m : Mode} (h : (enc, dec, alg, m) ∈ cipherPairs) :
    enc = cipherInstr alg m .enc ∧ dec = cipherInstr alg m .dec := by
  have hall : ∀ p ∈ cipherPairs, p.1 = cipherInstr p.2.2.1 p.2.2.2 .enc ∧ p.2.1 = cipherInstr p.2.2.1 p.2.2.2 .dec := by
    decide
  exact hall _ h

/-- What a cipher command that passes its checks puts into DOUT: `Y_1 ‖ .. ‖ Y_n` (R150). -/
def cipherOutput (alg : Alg) (m : Mode) (d : Dir) (s : State) : Bytes :=
  (modeBlocks m d alg (s.operand .key0) (s.operand .iv) (s.dinBlocks alg)).flatten

/-- The registers a command goes through on its operands. -/
def cipherReg (alg : Alg) (m : Mode) (d : Dir) (s : State) : Nat → Bytes :=
  modeReg m d alg (s.operand .key0) (s.operand .iv) (blockAt alg.block (s.operand .din))

section
variable {alg : Alg} {m : Mode} {s s' t : State} {i : Nat}

theorem CipherReady.key_length (h : CipherReady s alg m) : LegalKey alg (s.operand .key0).length := by
  simpa using h.1

theorem CipherReady.iv_length (h : CipherReady s alg m) : m = .ecb ∨ (s.operand .iv).length = alg.block := by
  simpa [LegalIv] using h.2.1

theorem CipherReady.legalData (h : CipherReady s alg m) : LegalData s alg := h.2.2

theorem CipherReady.dinBlocks_mem_length (h : CipherReady s alg m) : ∀ x ∈ s.dinBlocks alg, x.length = alg.block :=
  (dinBlocks_spec s alg h.legalData).2.1

/-- The data is the concatenation of its blocks (R150). -/
theorem CipherReady.dinBlocks_flatten (h : CipherReady s alg m) : (s.dinBlocks alg).flatten = s.operand .din := by
  refine blocksOf_flatten _ _ _ ?_
  rw [operand_length, Nat.mul_div_cancel' (Nat.dvd_of_mod_eq_zero h.legalData.2)]

/-- Block `i` of the data is there. -/
theorem CipherReady.lt_dinBlocks_length (h : CipherReady s alg m) (hi : alg.block * (i + 1) ≤ s.len .din) :
    i < (s.dinBlocks alg).length := by
  rw [(dinBlocks_spec s alg h.legalData).1]
  exact (Nat.le_div_iff_mul_le alg.block_pos).mpr (by rwa [Nat.mul_comm])

theorem CipherReady.outputBlocks_mem_length (h : CipherReady s alg m) (d : Dir) :
    ∀ y ∈ modeBlocks m d alg (s.operand .key0) (s.operand .iv) (s.dinBlocks alg), y.length = alg.block :=
  modeBlocks_mem_length_eq d h.key_length h.iv_length h.dinBlocks_mem_length

/-- The output is as long as the data (R150). -/
theorem CipherReady.output_length (h : CipherReady s alg m) (d : Dir) :
    (cipherOutput alg m d s).length = s.len .din := by
  rw [cipherOutput, flatten_length_of_mem _ _ (h.outputBlocks_mem_length d), modeBlocks_length,
    ← flatten_length_of_mem _ _ h.dinBlocks_mem_length, h.dinBlocks_flatten, operand_length]

theorem CipherReady.output_fits (h : CipherReady s alg m) (d : Dir) : (cipherOutput alg m d s).length ≤ s.doutMax :=
  (h.output_length d).trans_le (h.legalData.1.trans (Nat.le_add_right _ _))

/-- Block `i` of the output (R152 to R162). -/
theorem CipherReady.blockAt_output (h : CipherReady s alg m) (d : Dir) (hi : alg.block * (i + 1) ≤ s.len .din) :
    blockAt alg.block (cipherOutput alg m d s) i =
      modeOut m d alg (s.operand .key0) (cipherReg alg m d s i) (blockAt alg.block (s.operand .din) i) := by
  have hlt := h.lt_dinBlocks_length hi
  have hdata : ∀ j < (s.dinBlocks alg).length,
      (s.dinBlocks alg).getD j [] = blockAt alg.block (s.operand .din) j := by
    intro j hj
    obtain ⟨-, -, hblock⟩ := dinBlocks_spec s alg h.legalData
    refine hblock j ?_
    calc alg.block * (j + 1) ≤ alg.block * (s.dinBlocks alg).length := Nat.mul_le_mul_left _ hj
      _ = s.len .din := by
        rw [← flatten_length_of_mem _ _ h.dinBlocks_mem_length, h.dinBlocks_flatten, operand_length]
  calc blockAt alg.block (cipherOutput alg m d s) i
    _ = (modeBlocks m d alg (s.operand .key0) (s.operand .iv) (s.dinBlocks alg)).getD i [] :=
      slice_flatten _ _ _ (h.outputBlocks_mem_length d) (by rwa [modeBlocks_length])
    _ = _ := modeBlocks_getD hdata hlt

/-- A cipher command that passes its checks ends in DONE with its output (R150, R151). -/
theorem CipherReady.exec_done (h : CipherReady s alg m) (d : Dir) :
    ∃ t, exec (cipherInstr alg m d) s = .next t ∧ DoneWith s t false false (cipherOutput alg m d s) 0 := by
  obtain ⟨-, -, -, hready⟩ := cipher_spec alg m d s
  exact ⟨_, (exec_cipherInstr alg m d s).trans (hready h), doneWith_spec_zero s false false _ (h.output_fits d)⟩

/-- The result of a cipher command, block by block. -/
theorem CipherReady.exec_blocks (h : CipherReady s alg m) (d : Dir) :
    ∃ t v, exec (cipherInstr alg m d) s = .next t ∧ DoneWith s t false false v 0 ∧ v.length = s.len .din ∧
      ∀ i : Nat, alg.block * (i + 1) ≤ s.len .din → blockAt alg.block v i =
        modeOut m d alg (s.operand .key0) (cipherReg alg m d s i) (blockAt alg.block (s.operand .din) i) := by
  obtain ⟨t, ht, hdone⟩ := h.exec_done d
  exact ⟨t, _, ht, hdone, h.output_length d, fun i hi => h.blockAt_output d hi⟩

/-- Encryption in CBC and CFB: the register is the output block before (R154, R156). -/
theorem CipherReady.exec_chained_enc (h : CipherReady s alg m) (hm : m = .cbc ∨ m = .cfb) :
    ∃ t v, exec (cipherInstr alg m .enc) s = .next t ∧ DoneWith s t false false v 0 ∧ v.length = s.len .din ∧
      ∀ i : Nat, alg.block * (i + 1) ≤ s.len .din → blockAt alg.block v i =
        modeOut m .enc alg (s.operand .key0) (if i = 0 then s.operand .iv else blockAt alg.block v (i - 1))
          (blockAt alg.block (s.operand .din) i) := by
  obtain ⟨t, v, ht, hdone, hlen, hblocks⟩ := h.exec_blocks .enc
  refine ⟨t, v, ht, hdone, hlen, fun i hi => ?_⟩
  have hbefore : ∀ j < i, alg.block * (j + 1) ≤ s.len .din := fun j hj =>
    (Nat.mul_le_mul_left _ (by omega)).trans hi
  rw [← modeReg_enc hm fun j hj => hblocks j (hbefore j hj)]
  exact hblocks i hi

/-- Decryption in CBC and CFB: the register is the input block before (R155, R157). -/
theorem CipherReady.exec_chained_dec (h : CipherReady s alg m) (hm : m = .cbc ∨ m = .cfb) :
    ∃ t v, exec (cipherInstr alg m .dec) s = .next t ∧ DoneWith s t false false v 0 ∧ v.length = s.len .din ∧
      ∀ i : Nat, alg.block * (i + 1) ≤ s.len .din → blockAt alg.block v i =
        modeOut m .dec alg (s.operand .key0)
          (if i = 0 then s.operand .iv else blockAt alg.block (s.operand .din) (i - 1))
          (blockAt alg.block (s.operand .din) i) := by
  obtain ⟨t, v, ht, hdone, hlen, hblocks⟩ := h.exec_blocks .dec
  refine ⟨t, v, ht, hdone, hlen, fun i hi => ?_⟩
  rw [← modeReg_dec hm]
  exact hblocks i hi

/-- The registers of CTR are blocks that count up as one big-endian integer (R158, R161, R162). -/
theorem CipherReady.cipherReg_ctr (h : CipherReady s alg .ctr) (d : Dir) (i : Nat) :
    (cipherReg alg .ctr d s i).length = alg.block ∧
      int (cipherReg alg .ctr d s (i + 1)) = (int (cipherReg alg .ctr d s i) + 1) % 2 ^ (8 * alg.block) := by
  have hlen : (cipherReg alg .ctr d s i).length = alg.block := by
    induction i with
    | zero => exact h.iv_length.resolve_left (by decide)
    | succ i ih => exact (incBlock_spec _).1.trans ih
  refine ⟨hlen, ?_⟩
  rw [← hlen]
  exact (incBlock_spec _).2

/-- The state a completed cipher command leaves holds its output in DOUT (R36, R150). -/
theorem CipherReady.exec_output (h : CipherReady s alg m) (d : Dir) (ht : exec (cipherInstr alg m d) s = .next t) :
    t.st = .done ∧ t.output = cipherOutput alg m d s := by
  obtain ⟨u, hu, hdone⟩ := h.exec_done d
  cases ht.symm.trans hu
  have hmax : t.doutMax = s.doutMax := State.doutMax_congr hdone.kept.dataSize
  exact ⟨hdone.st, output_of_doutIs hdone.dout (hmax ▸ h.output_fits d)⟩

section
variable {d : Dir} (h : CipherReady s alg m) (hsize : s'.dataSize = s.dataSize)
  (hkey : s'.operand .key0 = s.operand .key0) (hiv : s'.operand .iv = s.operand .iv)
  (hdin : s'.operand .din = cipherOutput alg m d s)
include h hdin

theorem CipherReady.din_len_of_output : s'.len .din = s.len .din := by
  rw [← operand_length s', hdin, h.output_length d]

theorem CipherReady.dinBlocks_of_output :
    s'.dinBlocks alg = modeBlocks m d alg (s.operand .key0) (s.operand .iv) (s.dinBlocks alg) := by
  have hcut := blocksOf_of_flatten (h.outputBlocks_mem_length d)
  rw [modeBlocks_length, (dinBlocks_spec s alg h.legalData).1, ← h.din_len_of_output hdin] at hcut
  rw [State.dinBlocks, hdin]
  exact hcut

include hkey hiv

/-- The other direction on the output returns the data (R164). -/
theorem CipherReady.other_output : cipherOutput alg m d.other s' = s.operand .din := by
  rw [cipherOutput, hkey, hiv, h.dinBlocks_of_output hdin,
    modeBlocks_other d h.key_length h.iv_length h.dinBlocks_mem_length, h.dinBlocks_flatten]

include hsize

/-- The output of a command passes the checks again. -/
theorem CipherReady.of_output : CipherReady s' alg m := by
  have hkeyLen : s'.len .key0 = s.len .key0 := by rw [← operand_length s', hkey, operand_length]
  have hivLen : s'.len .iv = s.len .iv := by rw [← operand_length s', hiv, operand_length]
  have hdinLen : s'.len .din = s.len .din := h.din_len_of_output hdin
  obtain ⟨hlegalKey, hlegalIv, hlegalData⟩ := h
  refine ⟨hkeyLen ▸ hlegalKey, ?_, ?_⟩
  · rwa [LegalIv, hivLen]
  · rwa [LegalData, hdinLen, State.dataMax_congr hsize]

end

end

/-- A command that raises ends in ERROR with the code of the kind (R335). -/
theorem endsWith_of_raise {i : Instr} {s : State} {k : ErrKind} (h : exec i s = raise k s) : EndsWith i s k.code :=
  ⟨_, h, raised_spec s k⟩

/-! ## The statements -/

/-- Settles O26: ECB has no register. -/
theorem ecbTransformsEachBlock : Obligations.EcbTransformsEachBlock := by
  intro s alg enc dec hc hready
  obtain ⟨rfl, rfl⟩ : enc = cipherInstr alg .ecb .enc ∧ dec = cipherInstr alg .ecb .dec := by
    rcases hc with ⟨rfl, rfl, rfl⟩ | ⟨rfl, rfl, rfl⟩ <;> exact ⟨rfl, rfl⟩
  exact ⟨hready.exec_blocks .enc, hready.exec_blocks .dec⟩

/-- Settles O27: the register of CBC is the ciphertext block before, the output of one direction and the input of the
other. -/
theorem cbcChainsBlocks : Obligations.CbcChainsBlocks := by
  intro s alg enc dec hc hready
  obtain ⟨rfl, rfl⟩ : enc = cipherInstr alg .cbc .enc ∧ dec = cipherInstr alg .cbc .dec := by
    rcases hc with ⟨rfl, rfl, rfl⟩ | ⟨rfl, rfl, rfl⟩ <;> exact ⟨rfl, rfl⟩
  exact ⟨hready.exec_chained_enc (.inl rfl), hready.exec_chained_dec (.inl rfl)⟩

/-- Settles O28: CFB has the registers of CBC. -/
theorem cfbFeedsBackWholeBlocks : Obligations.CfbFeedsBackWholeBlocks := by
  intro s alg enc dec hc hready
  obtain ⟨rfl, rfl⟩ : enc = cipherInstr alg .cfb .enc ∧ dec = cipherInstr alg .cfb .dec := by
    rcases hc with ⟨rfl, rfl, rfl⟩ | ⟨rfl, rfl, rfl⟩ <;> exact ⟨rfl, rfl⟩
  exact ⟨hready.exec_chained_enc (.inr rfl), hready.exec_chained_dec (.inr rfl)⟩

/-- Settles O29: the key stream is the sequence of registers, each `E` of the one before. -/
theorem ofbStreamIgnoresTheData : Obligations.OfbStreamIgnoresTheData := by
  intro s alg c hc hready
  obtain ⟨d, rfl⟩ : ∃ d, c = cipherInstr alg .ofb d := by
    rcases hc with ⟨rfl, rfl | rfl⟩ | ⟨rfl, rfl | rfl⟩
    exacts [⟨.enc, rfl⟩, ⟨.dec, rfl⟩, ⟨.enc, rfl⟩, ⟨.dec, rfl⟩]
  obtain ⟨t, v, ht, hdone, hlen, hblocks⟩ := hready.exec_blocks d
  exact ⟨t, v, cipherReg alg .ofb d s, ht, hdone, hlen, rfl, fun _ => rfl, hblocks⟩

/-- Settles O30: the counter blocks are the registers. -/
theorem ctrCountsBigEndianBlocks : Obligations.CtrCountsBigEndianBlocks := by
  intro s alg c hc hready
  obtain ⟨d, rfl⟩ : ∃ d, c = cipherInstr alg .ctr d := by
    rcases hc with ⟨rfl, rfl | rfl⟩ | ⟨rfl, rfl | rfl⟩
    exacts [⟨.enc, rfl⟩, ⟨.dec, rfl⟩, ⟨.enc, rfl⟩, ⟨.dec, rfl⟩]
  obtain ⟨t, v, ht, hdone, hlen, hblocks⟩ := hready.exec_blocks d
  have hcount := hready.cipherReg_ctr d
  exact ⟨t, v, cipherReg alg .ctr d s, ht, hdone, hlen, rfl, fun i => ⟨(hcount (i + 1)).1, (hcount i).2⟩, hblocks⟩

/-- Settles O31: each check raises its kind, and a command that passes all three completes. -/
theorem cipherChecksInOrder : Obligations.CipherChecksInOrder := by
  intro c alg m hc s
  obtain ⟨d, rfl⟩ := eq_cipherInstr_of_mem_table hc
  obtain ⟨hkey, hiv, hdata, -⟩ := cipher_spec alg m d s
  simp only [← exec_cipherInstr] at hkey hiv hdata
  refine ⟨fun h => endsWith_of_raise (hkey h), fun h h' => endsWith_of_raise (hiv h h'),
    fun h h' h'' => endsWith_of_raise (hdata h h' h''), fun hready => ?_⟩
  obtain ⟨t, ht, hdone⟩ := hready.exec_done d
  exact ⟨t, ht, hdone.st⟩

/-- Settles O32: the second command is the first one's other direction, on the first one's output. -/
theorem cipherRoundTripReturnsTheData : Obligations.CipherRoundTripReturnsTheData := by
  intro enc dec alg m hpair c c' hc s s' t hready ht hsize hkey hiv hdin
  obtain ⟨henc, hdec⟩ := eq_cipherInstr_of_mem_pairs hpair
  obtain ⟨d, rfl, rfl⟩ : ∃ d : Dir, c = cipherInstr alg m d ∧ c' = cipherInstr alg m d.other := by
    rcases hc with ⟨hc, hc'⟩ | ⟨hc, hc'⟩
    · exact ⟨.enc, hc.trans henc, hc'.trans hdec⟩
    · exact ⟨.dec, hc.trans hdec, hc'.trans henc⟩
  rw [(hready.exec_output d ht).2] at hdin
  have hready' : CipherReady s' alg m := hready.of_output hsize hkey hiv hdin
  obtain ⟨t', ht', -⟩ := hready'.exec_done d.other
  obtain ⟨hst, hout⟩ := hready'.exec_output d.other ht'
  exact ⟨t', ht', hst, hout.trans (hready.other_output hkey hiv hdin)⟩

end Sys2Proof.Machine
end

section
/-! PROOFS. The MAC commands: CBC-MAC as the last block of CBC encryption, the running values of the Retail MAC and of
AES-CMAC, and doubling in GF(2^128) bit by bit (R180 to R187). -/

namespace Sys2Proof.Machine

/-! ## The CBC chain -/

section
variable (e : Bytes → Bytes) (h : Bytes) (xs : List Bytes)

/-- The chain over one more block (R181, R182, R187). -/
theorem chain_concat (x : Bytes) : chain e h (xs ++ [x]) = e (xorBytes x (chain e h xs)) := by
  induction xs generalizing h with
  | nil => rfl
  | cons p ps ih => exact ih (e (xorBytes p h))

/-- The running value `H_i` of the chain, behind the first `i` blocks (R181, R182, R187). -/
def chainAt (i : Nat) : Bytes := chain e h (xs.take i)

theorem chainAt_length : chainAt e h xs xs.length = chain e h xs := by rw [chainAt, List.take_length]

theorem chainAt_succ {i : Nat} (hi : i < xs.length) :
    chainAt e h xs (i + 1) = e (xorBytes (xs.getD i []) (chainAt e h xs i)) := by
  rw [chainAt, chainAt, ← List.take_concat_get' xs i hi, chain_concat, List.getD_eq_getElem _ _ hi]

/-- The output block of CBC encryption for one more block is the chain up to it (R154, R181). -/
theorem cbcEnc_concat (x : Bytes) : cbcEnc e h (xs ++ [x]) = cbcEnc e h xs ++ [chain e h (xs ++ [x])] := by
  induction xs generalizing h with
  | nil => rfl
  | cons p ps ih => exact congrArg (e (xorBytes p h) :: ·) (ih (e (xorBytes p h)))

/-- The chain ends in the last block of CBC encryption (R181). -/
theorem chain_suffix_cbcEnc (hxs : xs ≠ []) : chain e h xs <:+ (cbcEnc e h xs).flatten := by
  obtain ⟨init, last, rfl⟩ := List.eq_nil_or_concat' xs |>.resolve_left hxs
  exact ⟨(cbcEnc e h init).flatten, by rw [cbcEnc_concat, List.flatten_append, List.flatten_singleton]⟩

end

/-! ## The Retail MAC -/

/-- The padding of the Retail MAC: whole blocks, at least one, and less than a block of zeros behind data (R180). -/
theorem zpad8_spec (d : Bytes) : ∃ z n, zpad8 d = d ++ zeros z ∧ (d = [] → z = 8) ∧ (d ≠ [] → z < 8) ∧
    (zpad8 d).length = 8 * n ∧ 0 < n := by
  by_cases hd : d = []
  · subst hd
    exact ⟨8, 1, rfl, fun _ => rfl, fun h => absurd rfl h, rfl, Nat.one_pos⟩
  · have hlen : 0 < d.length := List.length_pos_iff.mpr hd
    have hpad : zpad8 d = d ++ zeros ((8 - d.length % 8) % 8) := if_neg hlen.ne'
    refine ⟨_, (d.length + 7) / 8, hpad, fun h => absurd h hd, fun _ => Nat.mod_lt _ (by decide), ?_, by omega⟩
    rw [hpad, List.length_append, zeros_length]
    omega

/-- `RMAC` is the Retail MAC: its running values are the chain over the blocks of the padded string (R182). -/
theorem rmac_isRetailMac (key iv d : Bytes) : IsRetailMac key iv d (rmac key iv d) := by
  obtain ⟨z, n, hpad, hempty, hdata, hlen, hpos⟩ := zpad8_spec d
  have hdiv : (zpad8 d).length / 8 = n := by omega
  have hblock : ∀ i < n, (blocksOf 8 n (zpad8 d)).getD i [] = blockAt 8 (zpad8 d) i :=
    fun i hi => blocksOf_getD 8 n i _ hi
  refine ⟨zpad8 d, z, n, chainAt (desE (slice key 0 8)) iv (blocksOf 8 n (zpad8 d)), hpad, hempty, hdata, hlen, rfl,
    fun i hi => ?_, ?_⟩
  · rw [chainAt_succ _ _ _ (by rw [blocksOf_length]; omega), hblock i (by omega)]
  · simp only [rmac, hdiv, hblock (n - 1) (by omega), chainAt]

/-! ## Doubling -/

/-- Byte `i` of a big-endian string is the quotient by the weight of its place (R10). -/
theorem be_getD (v : Nat) {n i : Nat} (hi : i < n) : (be n v).getD i 0 = BitVec.ofNat 8 (v / 256 ^ (n - 1 - i)) := by
  induction n generalizing i with
  | zero => omega
  | succ n ih =>
    cases i with
    | zero => rfl
    | succ i =>
      rw [be, List.getD_cons_succ, ih (by omega)]
      congr 3
      omega

/-- Bit `j` of a byte is a bit of the integer, at its distance from the end of the string (R10). -/
theorem getLsbD_getD (x : Bytes) {i j : Nat} (hi : i < x.length) (hj : j < 8) :
    (x.getD i 0).getLsbD j = (int x).testBit (8 * (x.length - 1 - i) + j) := by
  have hpow : 256 ^ (x.length - 1 - i) = 2 ^ (8 * (x.length - 1 - i)) := by rw [pow_mul]; norm_num
  calc (x.getD i 0).getLsbD j
    _ = ((be x.length (int x)).getD i 0).getLsbD j := by rw [be_int x _ rfl]
    _ = (int x / 2 ^ (8 * (x.length - 1 - i))).testBit j := by
      rw [be_getD _ hi, hpow, BitVec.getLsbD_ofNat, decide_eq_true hj, Bool.true_and]
    _ = _ := by rw [Nat.testBit_div_two_pow, Nat.add_comm]

theorem dbl_eq_be (x : Bytes) :
    dbl x = be 16 ((2 * int x % 2 ^ 128) ^^^ (if 2 ^ 127 ≤ int x then 0x87 else 0)) := by
  simp only [dbl, ge_iff_le, Nat.mul_comm 2]
  split <;> simp

/-- Doubling as an integer: the shift loses the top bit, and the constant is below the modulus (R184). -/
theorem int_dbl (x : Bytes) :
    int (dbl x) = (2 * int x % 2 ^ 128) ^^^ (if 2 ^ 127 ≤ int x then 0x87 else 0) := by
  have hconst : (if 2 ^ 127 ≤ int x then 0x87 else 0) < 2 ^ 128 := by split <;> decide
  rw [dbl_eq_be, int_be]
  exact Nat.mod_eq_of_lt (Nat.xor_lt_two_pow (n := 128) (Nat.mod_lt _ (by decide)) hconst)

theorem testBit_two_mul_succ (v p : Nat) : (2 * v).testBit (p + 1) = v.testBit p := by
  rw [Nat.testBit_succ, Nat.mul_div_cancel_left v Nat.two_pos]

section
variable {x : Bytes} (hx : x.length = 16)
include hx

/-- Bit `j` of byte `i` of a 16-byte string is bit `8 (15 - i) + j` of its integer (R10). -/
theorem getLsbD_getD_block {i j : Nat} (hi : i < 16) (hj : j < 8) :
    (x.getD i 0).getLsbD j = (int x).testBit (8 * (15 - i) + j) := by
  rw [getLsbD_getD x (by omega) hj, hx]

/-- The bit shifted out is bit 7 of the first byte (R184). -/
theorem top_bit_iff : 2 ^ 127 ≤ int x ↔ (x.getD 0 0).getLsbD 7 = true := by
  have hlt : int x < 2 ^ 128 := by simpa [hx] using int_lt x
  rw [getLsbD_getD_block hx (by decide) (by decide), Nat.testBit_eq_decide_div_mod_eq, decide_eq_true_iff]
  omega

/-- Bit `p` of the doubled integer: of the shift, and of the constant when the bit shifted out was 1 (R184). -/
theorem testBit_int_dbl {p : Nat} (hp : p < 128) : (int (dbl x)).testBit p =
    ((2 * int x).testBit p ^^ ((x.getD 0 0).getLsbD 7 && Nat.testBit 0x87 p)) := by
  rw [int_dbl, Nat.testBit_xor, Nat.testBit_mod_two_pow, decide_eq_true hp, Bool.true_and]
  simp only [top_bit_iff hx]
  cases (x.getD 0 0).getLsbD 7 <;> simp

/-- Bit `j` of byte `i` of the doubled string (R184). -/
theorem getLsbD_getD_dbl {i j : Nat} (hi : i < 16) (hj : j < 8) : ((dbl x).getD i 0).getLsbD j =
    ((2 * int x).testBit (8 * (15 - i) + j) ^^ ((x.getD 0 0).getLsbD 7 && Nat.testBit 0x87 (8 * (15 - i) + j))) := by
  rw [getLsbD_getD_block (dbl_length x) hi hj, testBit_int_dbl hx (by omega)]

/-- The shift moves bit `j` of a byte to bit `j + 1` of the same byte (R184). -/
theorem testBit_two_mul_int {i j : Nat} (hi : i < 16) (hj : j < 8) :
    (2 * int x).testBit (8 * (15 - i) + (j + 1)) = (x.getD i 0).getLsbD j := by
  rw [← Nat.add_assoc, testBit_two_mul_succ, getLsbD_getD_block hx hi hj]

/-- A byte before the last takes bit 7 of the next byte; the constant does not reach it (R184). -/
theorem getD_dbl_of_lt {i : Nat} (hi : i < 15) :
    (dbl x).getD i 0 = x.getD i 0 <<< 1 ||| x.getD (i + 1) 0 >>> 7 := by
  refine BitVec.eq_of_getLsbD_eq fun j hj => ?_
  have hconst : Nat.testBit 0x87 (8 * (15 - i) + j) = false :=
    Nat.testBit_lt_two_pow (lt_of_lt_of_le (by decide) (Nat.pow_le_pow_right (by decide) (show 8 ≤ _ by omega)))
  rw [getLsbD_getD_dbl hx (by omega) hj, hconst, Bool.and_false, Bool.xor_false, BitVec.getLsbD_or,
    BitVec.getLsbD_shiftLeft, BitVec.getLsbD_ushiftRight]
  cases j with
  | zero =>
    have hp : 8 * (15 - i) + 0 = 8 * (15 - (i + 1)) + (7 + 1) := by omega
    rw [hp, testBit_two_mul_int hx (by omega) (by decide)]
    simp
  | succ j =>
    rw [testBit_two_mul_int hx (by omega) (by omega), BitVec.getLsbD_of_ge _ _ (show 8 ≤ 7 + (j + 1) by omega)]
    simp [hj]

/-- The last byte takes no bit from the right, and the constant (R184). -/
theorem getD_dbl_last :
    (dbl x).getD 15 0 = (x.getD 15 0 <<< 1) ^^^ (if (x.getD 0 0).getLsbD 7 then 0x87 else 0x00) := by
  refine BitVec.eq_of_getLsbD_eq fun j hj => ?_
  have hconst : (if (x.getD 0 0).getLsbD 7 = true then (0x87 : Byte) else 0x00).getLsbD j =
      ((x.getD 0 0).getLsbD 7 && Nat.testBit 0x87 j) := by
    cases (x.getD 0 0).getLsbD 7
    · exact BitVec.getLsbD_zero
    · exact (BitVec.getLsbD_ofNat 8 0x87 j).trans (by rw [decide_eq_true hj])
  have hshift : (2 * int x).testBit (8 * (15 - 15) + j) = (x.getD 15 0 <<< 1).getLsbD j := by
    rw [BitVec.getLsbD_shiftLeft]
    cases j with
    | zero => simp
    | succ j =>
      rw [testBit_two_mul_int hx (by decide) (by omega)]
      simp [hj]
  rw [getLsbD_getD_dbl hx (by decide) hj, BitVec.getLsbD_xor, hconst, hshift, Nat.sub_self, Nat.mul_zero, Nat.zero_add]

/-- Doubling byte by byte (R184). -/
theorem dbl_isDouble : IsDouble x (dbl x) := ⟨dbl_length x, fun _ => getD_dbl_of_lt hx, getD_dbl_last hx⟩

end

/-! ## AES-CMAC -/

/-- The number of blocks of a CMAC, at least one (R187). -/
def cmacCount (d : Bytes) : Nat := max 1 ((d.length + 15) / 16)

/-- The blocks `M_1 .. M_n` of a CMAC (R187). -/
def cmacBlocks (key d : Bytes) : List Bytes :=
  blocksOf 16 (cmacCount d - 1) d ++ [cmacLast (subkeys key).1 (subkeys key).2 (d.drop (16 * (cmacCount d - 1)))]

theorem cmac_eq_chain (key d : Bytes) : cmac key d = chain (aesE key) (zeros 16) (cmacBlocks key d) := rfl

theorem cmacCount_pos (d : Bytes) : 0 < cmacCount d := lt_max_of_lt_left Nat.one_pos

theorem cmacBlocks_length (key d : Bytes) : (cmacBlocks key d).length = cmacCount d := by
  rw [cmacBlocks, List.length_append, blocksOf_length]
  exact Nat.sub_add_cancel (cmacCount_pos d)

theorem cmacBlocks_getD_of_lt (key : Bytes) {d : Bytes} {i : Nat} (hi : i + 1 < cmacCount d) :
    (cmacBlocks key d).getD i [] = blockAt 16 d i := by
  have hi' : i < cmacCount d - 1 := by omega
  rw [cmacBlocks, List.getD_append _ _ _ _ (by rwa [blocksOf_length])]
  exact blocksOf_getD 16 _ i d hi'

theorem cmacBlocks_getD_last (key d : Bytes) : (cmacBlocks key d).getD (cmacCount d - 1) [] =
    cmacLast (subkeys key).1 (subkeys key).2 (d.drop (16 * (cmacCount d - 1))) := by
  simp [cmacBlocks]

/-- `cmac` is AES-CMAC: its running values are the chain over its blocks (R187). -/
theorem cmac_isCmac {key : Bytes} (hk : LegalKey .aes key.length) (d : Bytes) : IsCmac key d (cmac key d) := by
  have hL : (aesE key (zeros 16)).length = 16 := blockE_length hk (zeros_length 16)
  refine ⟨(subkeys key).1, (subkeys key).2, d.drop (16 * (cmacCount d - 1)), cmacCount d,
    fun i => (cmacBlocks key d).getD i [], chainAt (aesE key) (zeros 16) (cmacBlocks key d),
    dbl_isDouble hL, dbl_isDouble (dbl_length _), rfl, fun i hi => cmacBlocks_getD_of_lt key hi, rfl,
    fun h => ?_, fun h => ?_, rfl, fun i hi => ?_, ?_⟩
  · exact (cmacBlocks_getD_last key d).trans (if_pos h)
  · exact (cmacBlocks_getD_last key d).trans (if_neg h)
  · exact chainAt_succ _ _ _ (hi.trans_eq (cmacBlocks_length key d).symm)
  · rw [cmac_eq_chain, ← cmacBlocks_length key d, chainAt_length]

/-! ## The commands -/

theorem exec_macRetail (s : State) : exec .macRetail s = execMacRetail s := rfl
theorem exec_macCmac (s : State) : exec .macCmac s = execMacCmac s := rfl
theorem exec_cmacSubkeys (s : State) : exec .cmacSubkeys s = execCmacSubkeys s := rfl

/-- MAC.CMAC (R187). -/
theorem exec_macCmac_spec (s : State) :
    (¬ LegalKey .aes (s.len .key0) → exec .macCmac s = raise .invalidKeyLength s) ∧
    (LegalKey .aes (s.len .key0) → s.len .din > s.dataMax → exec .macCmac s = raise .invalidDataLength s) ∧
    (LegalKey .aes (s.len .key0) → s.len .din ≤ s.dataMax →
      exec .macCmac s = done (cmac (s.operand .key0) (s.operand .din)) s) := by
  simp only [gt_iff_lt, ← Nat.not_le, ← dinFits_iff, ← key0Ok_iff, exec_macCmac]
  unfold execMacCmac State.aesKeyOk
  cases s.key0Ok .aes <;> cases s.dinFits <;> simp

/-- CMAC.SUBKEYS (R186). -/
theorem exec_cmacSubkeys_spec (s : State) :
    (¬ LegalKey .aes (s.len .key0) → exec .cmacSubkeys s = raise .invalidKeyLength s) ∧
    (LegalKey .aes (s.len .key0) →
      exec .cmacSubkeys s = done ((subkeys (s.operand .key0)).1 ++ (subkeys (s.operand .key0)).2) s) := by
  simp only [← key0Ok_iff, exec_cmacSubkeys]
  unfold execCmacSubkeys State.aesKeyOk
  cases s.key0Ok .aes <;> simp

/-- A command that completes with `v` ends in DONE with `v` in DOUT (R334). -/
theorem doneWith_of_done {i : Instr} {s : State} {v : Bytes} (h : exec i s = done v s) (hv : v.length ≤ s.doutMax) :
    ∃ t, exec i s = .next t ∧ DoneWith s t false false v 0 :=
  ⟨_, h, doneWith_spec_zero s false false v hv⟩

/-- What MAC.CBC puts into DOUT: the chain over the data from the IV (R181). -/
def cbcMac (alg : Alg) (s : State) : Bytes :=
  chain (blockE alg (s.operand .key0)) (s.operand .iv) (s.dinBlocks alg)

/-- The running values of MAC.CBC (R181). -/
def cbcMacAt (alg : Alg) (s : State) : Nat → Bytes :=
  chainAt (blockE alg (s.operand .key0)) (s.operand .iv) (s.dinBlocks alg)

section
variable {s : State} {alg : Alg}

theorem cbcMacAt_last (hdata : LegalData s alg) : cbcMacAt alg s (s.len .din / alg.block) = cbcMac alg s := by
  obtain ⟨hcount, -, -⟩ := dinBlocks_spec s alg hdata
  rw [← hcount]
  exact chainAt_length _ _ _

variable (h : CipherReady s alg .cbc)
include h

theorem CipherReady.cbcMacAt_succ {i : Nat} (hi : alg.block * (i + 1) ≤ s.len .din) :
    cbcMacAt alg s (i + 1) =
      blockE alg (s.operand .key0) (xorBytes (blockAt alg.block (s.operand .din) i) (cbcMacAt alg s i)) := by
  obtain ⟨-, -, hblock⟩ := dinBlocks_spec s alg h.legalData
  rw [← hblock i hi]
  exact chainAt_succ _ _ _ (h.lt_dinBlocks_length hi)

theorem CipherReady.cbcMac_length : (cbcMac alg s).length = alg.block :=
  chain_length h.dinBlocks_mem_length (fun _ => blockE_length h.key_length) (h.iv_length.resolve_left (by decide))

theorem CipherReady.macCbc_eq_done (h0 : s.len .din ≠ 0) : macCbc alg s = done (cbcMac alg s) s := by
  obtain ⟨hkey, hiv, hdata⟩ := h
  obtain ⟨-, -, -, hdone⟩ := macCbc_spec alg s
  exact hdone hkey (hiv.resolve_left (by decide)) hdata h0

/-- The CBC-MAC is the last block of what CBC encryption gives (R181). -/
theorem CipherReady.cbcMac_eq_drop (h0 : s.len .din ≠ 0) :
    cbcMac alg s = (cipherOutput alg .cbc .enc s).drop (s.len .din - alg.block) := by
  have hne : s.dinBlocks alg ≠ [] := fun hnil => h0 <| by
    rw [← operand_length s .din, ← h.dinBlocks_flatten, hnil, List.flatten_nil, List.length_nil]
  have hsuffix : cbcMac alg s <:+ cipherOutput alg .cbc .enc s := chain_suffix_cbcEnc _ _ _ hne
  rw [List.suffix_iff_eq_drop, h.cbcMac_length, h.output_length] at hsuffix
  exact hsuffix

end

/-! ## The statements -/

/-- Settles O33: the running values are those of CBC encryption, whose last one is the last block of its output. -/
theorem macCbcIsTheLastCbcBlock : Obligations.MacCbcIsTheLastCbcBlock := by
  intro s alg c e w hc
  obtain ⟨hw, hexec, rfl⟩ : encode c = w ∧ exec c s = macCbc alg s ∧ e = cipherInstr alg .cbc .enc := by
    rcases hc with ⟨rfl, rfl, rfl, rfl⟩ | ⟨rfl, rfl, rfl, rfl⟩ <;> exact ⟨rfl, rfl, rfl⟩
  obtain ⟨hkey, hiv, hdata, -⟩ := macCbc_spec alg s
  simp only [← hexec] at hkey hiv hdata
  refine ⟨hw, fun h => endsWith_of_raise (hkey h), fun h h' => endsWith_of_raise (hiv h h'),
    fun h h' h'' => endsWith_of_raise (hdata h h' h''), fun hready h0 => ?_⟩
  have hv : (cbcMac alg s).length = alg.block := hready.cbcMac_length
  obtain ⟨t, ht, hresult⟩ := doneWith_of_done (hexec.trans (hready.macCbc_eq_done h0))
    (hv.trans_le (s.le_doutMax (alg.block_le.trans (by decide))))
  obtain ⟨t', ht', -⟩ := hready.exec_done .enc
  refine ⟨t, t', cbcMac alg s, cbcMacAt alg s, ht, hresult, hv, rfl, fun i hi => hready.cbcMacAt_succ hi,
    (cbcMacAt_last hready.legalData).symm, ht', ?_⟩
  rw [(hready.exec_output .enc ht').2]
  exact hready.cbcMac_eq_drop h0

/-- Settles O34: each check raises its kind, and the value is `rmac`, a Retail MAC for every key, IV and data. -/
theorem macRetailMixesSingleAndTripleDes : Obligations.MacRetailMixesSingleAndTripleDes := by
  intro s
  obtain ⟨hkey, hiv, hdata, hdone⟩ := macRetail_spec s
  simp only [← exec_macRetail] at hkey hiv hdata hdone
  refine ⟨rfl, fun h => endsWith_of_raise (hkey h), fun h h' h'' => endsWith_of_raise (hiv h h' h''),
    fun h h' h'' => endsWith_of_raise (hdata h h' h''), fun h h' h'' => ?_⟩
  have hlen : (rmac (s.operand .key0) s.retailIv (s.operand .din)).length = 8 := rmac_length _ _ _
  obtain ⟨t, ht, hresult⟩ := doneWith_of_done (hdone h h' h'') (s.le_doutMax (by omega))
  exact ⟨t, _, ht, hresult, hlen, rmac_isRetailMac _ _ _⟩

/-- Settles O35: the IV is no operand, and a legal key makes the subkeys' source a block. -/
theorem macCmacFollowsItsRule : Obligations.MacCmacFollowsItsRule := by
  intro s
  obtain ⟨hkey, hdata, hdone⟩ := exec_macCmac_spec s
  refine ⟨rfl, fun h => endsWith_of_raise (hkey h), fun h h' => endsWith_of_raise (hdata h h'), fun h h' => ?_⟩
  have hk : LegalKey .aes (s.operand .key0).length := by rwa [operand_length]
  have hlen : (cmac (s.operand .key0) (s.operand .din)).length = 16 := cmac_length hk _
  obtain ⟨t, ht, hresult⟩ := doneWith_of_done (hdone h h') (s.le_doutMax (by omega))
  exact ⟨t, _, ht, hresult, hlen, cmac_isCmac hk _⟩

/-- Settles O36: both subkeys are doublings, so each has 16 bytes. -/
theorem cmacSubkeysAreDoublings : Obligations.CmacSubkeysAreDoublings := by
  refine ⟨fun x hx => ⟨dbl_isDouble hx, int_dbl x⟩, fun s => ?_⟩
  obtain ⟨hkey, hdone⟩ := exec_cmacSubkeys_spec s
  refine ⟨rfl, fun h => endsWith_of_raise (hkey h), fun h => ?_⟩
  obtain ⟨t, ht, hresult⟩ := doneWith_of_done (hdone h) (s.le_doutMax (by simp [subkeys]))
  exact ⟨t, _, _, ht, hresult, rfl, rfl, dbl_length _, dbl_length _⟩

end Sys2Proof.Machine
end

section
/-! PROOFS. Key derivation: digit data nibble by nibble, constants byte by byte, the KSN as an integer with its counter as
the low 21 bits, and the scan of DUKPT with its running keys and registers (R201 to R216). -/

namespace Sys2Proof.Machine

/-! ## Digit data -/

@[simp] theorem rightDigits_length (n : Nat) (ds : List Nibble) : (rightDigits n ds).length = n := by
  simp only [rightDigits, lastN, List.length_append, List.length_replicate, List.length_drop]
  omega

/-- The digit `k` places from the right, 0 where there is none (R201, R252). -/
theorem rightDigits_getD {n k : Nat} (ds : List Nibble) (hk : k < n) :
    (rightDigits n ds).getD (n - 1 - k) 0 = if k < ds.length then ds.getD (ds.length - 1 - k) 0 else 0 := by
  unfold rightDigits lastN
  split
  case isTrue h =>
    rw [List.getD_append_right _ _ _ _ (by rw [List.length_replicate]; omega), List.length_replicate,
      List.getD_eq_getElem?_getD, List.getElem?_drop, ← List.getD_eq_getElem?_getD]
    congr 1
    omega
  case isFalse h =>
    have hpad : n - 1 - k < n - ds.length := by omega
    rw [List.getD_append _ _ _ _ (by rwa [List.length_replicate]), List.getD_replicate _ hpad]

theorem nib_pack (d : List Nibble) {n : Nat} (h : d.length = 2 * n) (k : Nat) : nib (pack d) k = d.getD k 0 := by
  rw [nib, nibs_pack d n h]

theorem map_digitOf_getD (b : Bytes) {i : Nat} (hi : i < b.length) :
    (b.map digitOf).getD i 0 = digitOf (b.getD i 0) := by
  rw [List.getD_eq_getElem _ _ (by rwa [List.length_map]), List.getElem_map, List.getD_eq_getElem _ _ hi]

theorem udk_isUdk (imk pan psn : Bytes) : IsUdk imk pan psn (udk imk pan psn) := by
  have heven : (rightDigits 16 ((pan ++ psn).map digitOf)).length = 2 * 8 := rightDigits_length _ _
  refine ⟨udkDatum pan psn, pack_length _ 8 heven, fun k hk => ?_, rfl⟩
  rw [udkDatum, nib_pack _ heven, rightDigits_getD _ hk, List.length_map]
  split
  case isTrue h => rw [map_digitOf_getD _ (by omega)]
  case isFalse h => rfl

/-! ## Constants byte by byte -/

/-- A byte of the big-endian string of a word is the slice of the word at its place (R10). -/
theorem ofNat_div_eq_extractLsb' {w : Nat} (v : BitVec w) (n : Nat) :
    BitVec.ofNat 8 (v.toNat / 256 ^ n) = v.extractLsb' (8 * n) 8 := by
  apply BitVec.eq_of_toNat_eq
  rw [BitVec.toNat_ofNat, BitVec.extractLsb'_toNat, Nat.shiftRight_eq_div_pow, pow_mul]
  rfl

theorem be_atc (atc : BitVec 16) : be 2 atc.toNat = atcBytes atc := by
  simp only [be, atcBytes, ofNat_div_eq_extractLsb']

theorem be_sixBytes (v : BitVec 48) : be 6 v.toNat = sixBytes v := by
  simp only [be, sixBytes, ofNat_div_eq_extractLsb']

/-- The suffixes of a method are the two words of its pair (R202, R204, R205). -/
theorem suffix_eq (m : Method) :
    suffix m = (sixBytes (suffixPair m).1, sixBytes (suffixPair m).2) := by
  rw [← be_sixBytes, ← be_sixBytes]
  cases m <;> rfl

theorem sessionKeyFor_isSessionKey (m : Method) (u : Bytes) (atc : BitVec 16) :
    IsSessionKey m u atc (sessionKeyFor m u atc) := by
  rw [IsSessionKey, sessionKeyFor, suffix_eq, sessionKeyOf, be_atc]

theorem keyRegisterMask_eq : keyRegisterMask = krmBytes := by decide
theorem pinMask_eq : pinMask = pinMaskBytes := by decide
theorem macMask_eq : macMask = macMaskBytes := by decide
theorem dataMask_eq : dataMask = dataMaskBytes := by decide

/-! ## The KSN as an integer -/

/-- The integer of a KSN that is given by its first seven bytes and the last three. -/
theorem int_append_three (a : Bytes) (x y z : Byte) :
    int (a ++ [x, y, z]) = 2 ^ 24 * int a + 2 ^ 16 * x.toNat + 2 ^ 8 * y.toNat + z.toNat := by
  simp only [int_append, int_cons, int_nil, List.length_cons, List.length_nil]
  omega

theorem ksn_eq_append_three {ksn : Bytes} (h : ksn.length = 10) :
    slice ksn 0 7 ++ [ksn.getD 7 0, ksn.getD 8 0, ksn.getD 9 0] = ksn := by
  match ksn, h with
  | [_, _, _, _, _, _, _, _, _, _], _ => rfl

/-- Byte 7 of the KSN: five bits of the counter below three bits of the rest (R206). -/
theorem toNat_and_counter_bits (b : Byte) : (b &&& 0x1F).toNat = b.toNat % 2 ^ 5 :=
  (BitVec.toNat_and b 0x1F).trans (Nat.and_two_pow_sub_one_eq_mod b.toNat 5)

theorem toNat_and_base_bits (b : Byte) : (b &&& 0xE0).toNat = 2 ^ 5 * (b.toNat / 2 ^ 5) := by
  revert b; decide +kernel

/-- A value of five bits goes below the base bits of byte 7 without a carry (R216). -/
theorem toNat_base_bits_or (b : Byte) {c : Nat} (hc : c < 2 ^ 5) :
    ((b &&& 0xE0) ||| BitVec.ofNat 8 c).toNat = 2 ^ 5 * (b.toNat / 2 ^ 5) + c := by
  rw [BitVec.toNat_or, toNat_and_base_bits, BitVec.toNat_ofNat, Nat.mod_eq_of_lt (by omega),
    Nat.two_pow_add_eq_or_of_lt hc]

section
variable {ksn : Bytes} (h : ksn.length = 10)
include h

/-- The counter is the low 21 bits of the KSN (R206). -/
theorem ksnCounter_eq_mod : ksnCounter ksn = int ksn % 2 ^ 21 := by
  have hint := int_append_three (slice ksn 0 7) (ksn.getD 7 0) (ksn.getD 8 0) (ksn.getD 9 0)
  rw [ksn_eq_append_three h] at hint
  rw [ksnCounter, toNat_and_counter_bits, hint]
  omega

/-- Writing a counter of 21 bits changes only the low 21 bits of the KSN (R216). -/
theorem int_ksnWithCounter {c : Nat} (hc : c < 2 ^ 21) :
    int (ksnWithCounter ksn c) = 2 ^ 21 * (int ksn / 2 ^ 21) + c := by
  have hint := int_append_three (slice ksn 0 7) (ksn.getD 7 0) (ksn.getD 8 0) (ksn.getD 9 0)
  rw [ksn_eq_append_three h] at hint
  rw [ksnWithCounter, int_append_three, toNat_base_bits_or _ (by omega), BitVec.toNat_ofNat, BitVec.toNat_ofNat, hint]
  omega

theorem ksnWithCounter_length (c : Nat) : (ksnWithCounter ksn c).length = 10 := by
  rw [ksnWithCounter, List.length_append, slice_length _ _ _ (by omega)]
  rfl

/-- One more in the counter is one more in the KSN, when the counter is not all ones (R216). -/
theorem int_ksnWithCounter_succ (hc : int ksn % 2 ^ 21 ≠ 0x1FFFFF) :
    int (ksnWithCounter ksn (ksnCounter ksn + 1)) = int ksn + 1 := by
  rw [ksnCounter_eq_mod h, int_ksnWithCounter h (by omega)]
  omega

end

/-! ## DUKPT -/

theorem ipek_isIpek (bdk ksn : Bytes) : IsIpek bdk ksn (ipek bdk ksn) := by
  rw [IsIpek, ← keyRegisterMask_eq]
  rfl

theorem nrkg_isNrkg (key r : Bytes) : IsNrkg key r (nrkg key r) :=
  ⟨xorBytes key krmBytes, rfl, by rw [← keyRegisterMask_eq]; rfl⟩

/-- The step of the scan at bit `i` of the counter `c`: the running key and register above the bit give those at it
(R211). -/
def ScanStep (c : Nat) (K : Nat → Bytes) (R : Nat → Nat) (i : Nat) : Prop :=
  if c.testBit i then R i = R (i + 1) ||| 2 ^ i ∧ IsNrkg (K (i + 1)) (be 8 (R i)) (K i)
  else R i = R (i + 1) ∧ K i = K (i + 1)

/-- The register below bit `i` (R211). -/
def scanReg (c i r : Nat) : Nat := if c.testBit i then r ||| 2 ^ i else r

/-- The key below bit `i` (R211). -/
def scanKey (c i r : Nat) (key : Bytes) : Bytes := if c.testBit i then nrkg key (be 8 (r ||| 2 ^ i)) else key

theorem ctkScan_succ (c i r : Nat) (key : Bytes) :
    ctkScan c (i + 1) r key = ctkScan c i (scanReg c i r) (scanKey c i r key) := by
  rw [ctkScan, scanReg, scanKey]
  split <;> rfl

section
variable {c i : Nat} {K : Nat → Bytes} {R : Nat → Nat}

theorem scanStep_of_eq (hR : R i = scanReg c i (R (i + 1))) (hK : K i = scanKey c i (R (i + 1)) (K (i + 1))) :
    ScanStep c K R i := by
  rw [scanReg] at hR
  rw [scanKey] at hK
  rw [ScanStep]
  split
  case isTrue hbit =>
    rw [if_pos hbit] at hR hK
    rw [hR, hK]
    exact ⟨rfl, nrkg_isNrkg _ _⟩
  case isFalse hbit =>
    rw [if_neg hbit] at hR hK
    exact ⟨hR, hK⟩

/-- A step does not see the running values above it. -/
theorem ScanStep.update {n : Nat} (h : ScanStep c K R i) (hi : i < n) (key : Bytes) (r : Nat) :
    ScanStep c (Function.update K (n + 1) key) (Function.update R (n + 1) r) i := by
  have hi0 : i ≠ n + 1 := by omega
  have hi1 : i + 1 ≠ n + 1 := by omega
  simpa only [ScanStep, Function.update_of_ne hi0, Function.update_of_ne hi1] using h

end

/-- The scan is a run of its steps from bit `n - 1` down to bit 0 (R211). -/
theorem ctkScan_steps (c n r : Nat) (key : Bytes) : ∃ (K : Nat → Bytes) (R : Nat → Nat),
    K n = key ∧ R n = r ∧ (∀ i < n, ScanStep c K R i) ∧ ctkScan c n r key = K 0 := by
  induction n generalizing r key with
  | zero => exact ⟨fun _ => key, fun _ => r, rfl, rfl, fun _ hi => absurd hi (Nat.not_lt_zero _), rfl⟩
  | succ n ih =>
    obtain ⟨K, R, hK, hR, hsteps, hend⟩ := ih (scanReg c n r) (scanKey c n r key)
    have hne : n ≠ n + 1 := n.lt_succ_self.ne
    refine ⟨Function.update K (n + 1) key, Function.update R (n + 1) r, Function.update_self .., Function.update_self ..,
      fun i hi => ?_, ?_⟩
    · rcases Nat.lt_succ_iff_lt_or_eq.mp hi with hlt | rfl
      · exact (hsteps i hlt).update hlt key r
      · apply scanStep_of_eq
        · rw [Function.update_of_ne hne, Function.update_self, hR]
        · rw [Function.update_of_ne hne, Function.update_self, Function.update_self, hK]
    · rw [ctkScan_succ, hend, Function.update_of_ne n.succ_ne_zero.symm]

theorem ctk_length (bdk ksn : Bytes) : (ctk bdk ksn).length = 16 := ctkScan_length _ _ _ (ipek_length _ _)

theorem ctk_isCurrentKey (bdk : Bytes) {ksn : Bytes} (h : ksn.length = 10) : IsCurrentKey bdk ksn (ctk bdk ksn) := by
  obtain ⟨K, R, hK, hR, hsteps, hend⟩ :=
    ctkScan_steps (ksnCounter ksn) 21 (int (slice (ksnBase ksn) 2 10)) (ipek bdk ksn)
  rw [ksnCounter_eq_mod h] at hsteps
  exact ⟨K, R, hK ▸ ipek_isIpek bdk ksn, hR, hsteps, hend⟩

/-- The record with its masks byte by byte (R212, R214). -/
theorem keySet_eq {bdk ksn c x : Bytes} (hc : c = ctk bdk ksn) (hx : x = xorBytes c dataMaskBytes) :
    keySet bdk ksn = ipek bdk ksn ++ ksn ++ c ++ xorBytes c pinMaskBytes ++ xorBytes c macMaskBytes ++
      (tdesE x (slice x 0 8) ++ tdesE x (slice x 8 16)) := by
  rw [hx, hc, ← pinMask_eq, ← macMask_eq, ← dataMask_eq]
  rfl

/-! ## The commands -/

theorem exec_kdUdk (s : State) : exec .kdUdk s = execKdUdk s := rfl
theorem exec_dukptIpek (s : State) : exec .dukptIpek s = execDukptIpek s := rfl
theorem exec_dukptKeyset (s : State) : exec .dukptKeyset s = execDukptKeyset s := rfl
theorem exec_ksnInc (s : State) : exec .ksnInc s = execKsnInc s := rfl

theorem exec_of_mem_sessionKeyTable {c : Instr} {m : Method} {w : Word} (h : (c, m, w) ∈ sessionKeyTable) (s : State) :
    encode c = w ∧ exec c s = sessionKeyCommand m s := by
  simp only [sessionKeyTable, List.mem_cons, List.not_mem_nil, or_false, Prod.mk.injEq] at h
  obtain ⟨rfl, rfl, rfl⟩ | ⟨rfl, rfl, rfl⟩ | ⟨rfl, rfl, rfl⟩ := h <;> exact ⟨rfl, rfl⟩

/-- KD.UDK (R201). -/
theorem exec_kdUdk_spec (s : State) :
    (s.len .key0 ≠ 16 → exec .kdUdk s = raise .invalidKeyLength s) ∧
    (s.len .key0 = 16 → ¬ (LegalDigits s .pan ∧ LegalDigits s .psn) → exec .kdUdk s = raise .invalidOperand s) ∧
    (s.len .key0 = 16 → LegalDigits s .pan ∧ LegalDigits s .psn →
      exec .kdUdk s = done (udk (s.operand .key0) (s.operand .pan) (s.operand .psn)) s) := by
  simp only [ne_eq, ← key16_iff, ← cardOk_iff, exec_kdUdk]
  unfold execKdUdk
  cases s.key16 <;> cases s.cardOk <;> simp

/-- The checks that the two DUKPT commands share: a 16-byte BDK, then a 10-byte KSN (R209, R214). -/
theorem spec_of_dukpt_checks {i : Instr} {s : State} {v : Bytes}
    (h : exec i s = if !s.key16 then raise .invalidKeyLength s else if !s.ksn10 then raise .invalidOperand s else done v s) :
    (s.len .key0 ≠ 16 → exec i s = raise .invalidKeyLength s) ∧
    (s.len .key0 = 16 → s.len .ksn ≠ 10 → exec i s = raise .invalidOperand s) ∧
    (s.len .key0 = 16 → s.len .ksn = 10 → exec i s = done v s) := by
  simp only [ne_eq, ← key16_iff, ← ksn10_iff, h]
  cases s.key16 <;> cases s.ksn10 <;> simp

/-- KSN.INC (R216). -/
theorem exec_ksnInc_spec (s : State) :
    (s.len .ksn ≠ 10 → exec .ksnInc s = raise .invalidOperand s) ∧
    (s.len .ksn = 10 → ksnCounter (s.operand .ksn) = 0x1FFFFF → exec .ksnInc s = raise .counterOverflow s) ∧
    (s.len .ksn = 10 → ksnCounter (s.operand .ksn) ≠ 0x1FFFFF →
      exec .ksnInc s = done (ksnWithCounter (s.operand .ksn) (ksnCounter (s.operand .ksn) + 1)) s) := by
  simp only [ne_eq, ← ksn10_iff, exec_ksnInc]
  unfold execKsnInc
  cases s.ksn10 <;> by_cases hc : ksnCounter (s.operand .ksn) = 0x1FFFFF <;> simp [hc]

/-! ## The statements -/

/-- Settles O37: the datum is packed from 16 digits, so its nibbles are the digits counted from the right. -/
theorem udkEncryptsTheDigitDatum : Obligations.UdkEncryptsTheDigitDatum := by
  intro s
  obtain ⟨hkey, hcard, hdone⟩ := exec_kdUdk_spec s
  refine ⟨rfl, fun h => endsWith_of_raise (hkey h), fun h h' => endsWith_of_raise (hcard h h'), fun h hpan hpsn => ?_⟩
  have hlen := udk_length (s.operand .key0) (s.operand .pan) (s.operand .psn)
  obtain ⟨t, ht, hresult⟩ := doneWith_of_done (hdone h ⟨hpan, hpsn⟩) (s.le_doutMax (by omega))
  exact ⟨t, _, ht, hresult, hlen, udk_isUdk _ _ _⟩

/-- Settles O38: the three commands are one, by method. -/
theorem sessionKeysFollowTheirMethod : Obligations.SessionKeysFollowTheirMethod := by
  intro c m w hc s
  obtain ⟨hw, hexec⟩ := exec_of_mem_sessionKeyTable hc s
  obtain ⟨hkey, hdone⟩ := sessionKeyCommand_spec m s
  refine ⟨hw, fun h => endsWith_of_raise (hexec.trans (hkey h)), fun h => ?_⟩
  have hlen := sessionKeyFor_length m (s.operand .key0) s.atc
  obtain ⟨t, ht, hresult⟩ := doneWith_of_done (hexec.trans (hdone h)) (s.le_doutMax (by omega))
  exact ⟨t, _, ht, hresult, hlen, sessionKeyFor_isSessionKey _ _ _⟩

/-- Settles O39: the masked KSN and key register are those of the rule. -/
theorem dukptIpekClearsTheCounter : Obligations.DukptIpekClearsTheCounter := by
  intro s
  obtain ⟨hkey, hksn, hdone⟩ := spec_of_dukpt_checks (exec_dukptIpek s)
  refine ⟨rfl, fun h => endsWith_of_raise (hkey h), fun h h' => endsWith_of_raise (hksn h h'), fun h h' => ?_⟩
  have hlen := ipek_length (s.operand .key0) (s.operand .ksn)
  obtain ⟨t, ht, hresult⟩ := doneWith_of_done (hdone h h') (s.le_doutMax (by omega))
  exact ⟨t, _, ht, hresult, hlen, ipek_isIpek _ _⟩

/-- Settles O40: the record's current key is where the scan of the counter's 21 bits ends. -/
theorem dukptKeysetScansTheCounter : Obligations.DukptKeysetScansTheCounter := by
  intro s
  obtain ⟨hkey, hksn, hdone⟩ := spec_of_dukpt_checks (exec_dukptKeyset s)
  refine ⟨rfl, fun h => endsWith_of_raise (hkey h), fun h h' => endsWith_of_raise (hksn h h'), fun h h' => ?_⟩
  have hksnLen : (s.operand .ksn).length = 10 := by rwa [operand_length]
  have hlen := keySet_length (s.operand .key0) hksnLen
  obtain ⟨t, ht, hresult⟩ := doneWith_of_done (hdone h h') (s.le_doutMax (by omega))
  have hdoutLen : t.doutLen = 90 := BitVec.eq_of_toNat_eq (hresult.dout.len.trans hlen)
  rw [keySet_eq rfl rfl] at hresult
  exact ⟨t, _, _, _, ht, ipek_isIpek _ _, ctk_isCurrentKey _ hksnLen, rfl, ipek_length _ _, ctk_length _ _, hresult,
    hdoutLen⟩

/-- Settles O41: the counter is the KSN modulo 2^21, and below the overflow one more in it carries no further. -/
theorem ksnIncrementAddsOneOrOverflows : Obligations.KsnIncrementAddsOneOrOverflows := by
  intro s
  obtain ⟨hksn, hoverflow, hdone⟩ := exec_ksnInc_spec s
  have hksnLen (h : s.len .ksn = 10) : (s.operand .ksn).length = 10 := by rwa [operand_length]
  refine ⟨rfl, fun h => endsWith_of_raise (hksn h), fun h hc => ?_, fun h hc => ?_⟩
  · rw [← ksnCounter_eq_mod (hksnLen h)] at hc
    exact endsWith_of_raise (hoverflow h hc)
  · have hlen := ksnWithCounter_length (hksnLen h) (ksnCounter (s.operand .ksn) + 1)
    have hsucc := int_ksnWithCounter_succ (hksnLen h) hc
    rw [← ksnCounter_eq_mod (hksnLen h)] at hc
    obtain ⟨t, ht, hresult⟩ := doneWith_of_done (hdone h hc) (s.le_doutMax (by omega))
    exact ⟨t, _, ht, hresult, hlen, hsucc⟩

end Sys2Proof.Machine
end

section
/-! PROOFS. The cryptogram commands: the session key, MAC input and cryptogram of the operands with the record they make,
the three types and three methods as one operation each, and the two ARPC methods (R230 to R240). -/

namespace Sys2Proof.Machine

/-! ## The cryptogram and its record -/

section
variable (m : Method) (s : State)

theorem acSessionKey_length : (s.acSessionKey m).length = 16 := sessionKeyFor_length _ _ _

theorem cryptogram_length : (s.cryptogram m).length = 8 := rmac_length _ _ _

theorem acMacInput_eq : s.acMacInput = s.operand .din ++ atcBytes s.atc ++ s.operand .un := by
  rw [State.acMacInput, acInput, be_atc]

theorem acMacInput_length : s.acMacInput.length = s.len .din + 2 + s.len .un := by
  rw [acMacInput_eq, List.length_append, List.length_append, operand_length, operand_length]
  rfl

/-- The cryptogram is the Retail MAC under the session key of the UDK, whatever the operands (R230 to R232). -/
theorem cryptogram_isCryptogram : IsCryptogram m s (s.acSessionKey m) s.acMacInput (s.cryptogram m) :=
  ⟨udk (s.operand .key0) (s.operand .pan) (s.operand .psn), udk_isUdk _ _ _, sessionKeyFor_isSessionKey _ _ _,
    acMacInput_eq s, rmac_isRetailMac _ _ _⟩

end

/-- A length of two bytes, the high byte first (R10). -/
theorem be_two (n : Nat) : be 2 n = [BitVec.ofNat 8 (n / 256), BitVec.ofNat 8 n] := by
  simp only [be, pow_one, pow_zero, Nat.div_one]

/-- The record with its length field byte by byte (R233). -/
theorem acRecord_eq (ty : CType) (ac key inp : Bytes) : acRecord ty ac key inp =
    [ty.tag] ++ ac ++ key ++ [BitVec.ofNat 8 (inp.length / 256), BitVec.ofNat 8 inp.length] ++ inp := by
  rw [acRecord, be_two]

theorem acRecord_length (ty : CType) (ac key inp : Bytes) :
    (acRecord ty ac key inp).length = 1 + ac.length + key.length + 2 + inp.length := by
  simp only [acRecord, List.length_append, List.length_singleton, be_length]

/-- DOUT holds the record of the longest data and UN (R36, R233). -/
theorem acRecord_length_le_doutMax (ty : CType) (m : Method) {s : State} (hun : s.len .un ≤ 8)
    (hdin : s.len .din ≤ s.dataMax) :
    (acRecord ty (s.cryptogram m) (s.acSessionKey m) s.acMacInput).length ≤ s.doutMax := by
  rw [acRecord_length, cryptogram_length, acSessionKey_length, acMacInput_length, s.doutMax_eq]
  omega

/-! ## The commands -/

/-- The type whose tag is byte 0 of the record (R233). -/
def CType.ofTag (tag : Byte) : CType := if tag = 0x00 then .arqc else if tag = 0x01 then .tc else .aac

theorem exec_of_mem_acGenTable {c : Instr} {tag : Byte} {m : Method} {w : Word} (h : (c, tag, m, w) ∈ acGenTable)
    (s : State) : encode c = w ∧ (CType.ofTag tag).tag = tag ∧ exec c s = acGen (CType.ofTag tag) m s := by
  simp only [acGenTable, List.mem_cons, List.not_mem_nil, or_false, Prod.mk.injEq] at h
  obtain ⟨rfl, rfl, rfl, rfl⟩ | ⟨rfl, rfl, rfl, rfl⟩ | ⟨rfl, rfl, rfl, rfl⟩ | ⟨rfl, rfl, rfl, rfl⟩ |
    ⟨rfl, rfl, rfl, rfl⟩ | ⟨rfl, rfl, rfl, rfl⟩ | ⟨rfl, rfl, rfl, rfl⟩ | ⟨rfl, rfl, rfl, rfl⟩ |
    ⟨rfl, rfl, rfl, rfl⟩ := h <;> exact ⟨rfl, rfl, rfl⟩

theorem exec_of_mem_acVerifyTable {c : Instr} {m : Method} {w : Word} (h : (c, m, w) ∈ acVerifyTable) (s : State) :
    encode c = w ∧ exec c s = acVerify m s := by
  simp only [acVerifyTable, List.mem_cons, List.not_mem_nil, or_false, Prod.mk.injEq] at h
  obtain ⟨rfl, rfl, rfl⟩ | ⟨rfl, rfl, rfl⟩ | ⟨rfl, rfl, rfl⟩ := h <;> exact ⟨rfl, rfl⟩

theorem exec_arpcM1 (s : State) : exec .arpcM1 s = execArpcM1 s := rfl
theorem exec_arpcM2 (s : State) : exec .arpcM2 s = execArpcM2 s := rfl

/-- The checks that the two ARPC commands share: a 16-byte session key, then the lengths of the operands (R238, R240). -/
theorem spec_of_arpc_checks {i : Instr} {s : State} {lengthsOk : Bool} {P : Prop} {v : Bytes} (hP : lengthsOk = true ↔ P)
    (h : exec i s = if !s.key16 then raise .invalidKeyLength s
      else if !lengthsOk then raise .invalidOperand s else done v s) :
    (s.len .key0 ≠ 16 → exec i s = raise .invalidKeyLength s) ∧
    (s.len .key0 = 16 → ¬ P → exec i s = raise .invalidOperand s) ∧
    (s.len .key0 = 16 → P → exec i s = done v s) := by
  simp only [ne_eq, ← key16_iff, ← hP, h]
  cases s.key16 <;> cases lengthsOk <;> simp

/-- ARPC.M1 (R238). -/
theorem exec_arpcM1_spec (s : State) :
    (s.len .key0 ≠ 16 → exec .arpcM1 s = raise .invalidKeyLength s) ∧
    (s.len .key0 = 16 → ¬ (s.len .aux0 = 8 ∧ s.len .aux1 ≤ 8) → exec .arpcM1 s = raise .invalidOperand s) ∧
    (s.len .key0 = 16 → s.len .aux0 = 8 ∧ s.len .aux1 ≤ 8 → exec .arpcM1 s =
      done (tdesE (s.operand .key0) (xorBytes (s.operand .aux0) (padRight8 (s.operand .aux1)))) s) :=
  spec_of_arpc_checks (by simp) (exec_arpcM1 s)

/-- ARPC.M2 (R240). -/
theorem exec_arpcM2_spec (s : State) :
    (s.len .key0 ≠ 16 → exec .arpcM2 s = raise .invalidKeyLength s) ∧
    (s.len .key0 = 16 → ¬ (s.len .aux0 = 8 ∧ s.len .aux1 ≤ 8 ∧ s.len .aux2 ≤ 8) →
      exec .arpcM2 s = raise .invalidOperand s) ∧
    (s.len .key0 = 16 → s.len .aux0 = 8 ∧ s.len .aux1 ≤ 8 ∧ s.len .aux2 ≤ 8 → exec .arpcM2 s =
      done ((rmac (s.operand .key0) (zeros 8) (s.operand .aux0 ++ s.operand .aux1 ++ s.operand .aux2)).take 4) s) :=
  spec_of_arpc_checks (by simp [and_assoc]) (exec_arpcM2 s)

/-- A command that completes with `v` and VFAIL ends in DONE with both (R236, R334). -/
theorem doneWith_of_doneVfail {i : Instr} {s : State} {vfail : Bool} {v : Bytes} (h : exec i s = doneVfail vfail v s)
    (hv : v.length ≤ s.doutMax) : ∃ t, exec i s = .next t ∧ DoneWith s t vfail false v 0 :=
  ⟨_, h, doneWith_spec_zero s vfail false v hv⟩

/-! ## The first ARPC method -/

/-- The padding of an operand by its length register (R238). -/
theorem padRight8_operand (s : State) (b : Buf) : padRight8 (s.operand b) = s.operand b ++ zeros (8 - s.len b) := by
  rw [padRight8, operand_length]

theorem padRight8_length {a : Bytes} (h : a.length ≤ 8) : (padRight8 a).length = 8 := by
  rw [padRight8, List.length_append, zeros_length]
  omega

/-- Decryption and XOR take the ARC off an ARPC of method 1 (R238). -/
theorem xorBytes_tdesD_tdesE (key : Bytes) {a b : Bytes} (ha : a.length = 8) (hb : b.length = 8) :
    xorBytes (tdesD key (tdesE key (xorBytes a b))) b = a := by
  have hblock : (xorBytes a b).length = 8 := by rw [xorBytes_length, ha, hb, Nat.min_self]
  rw [tdesD_tdesE key hblock, xorBytes_xorBytes_cancel a b (ha.trans hb.symm).le]

/-! ## The statements -/

/-- Settles O42: the nine commands are one, by type and method, and byte 0 of the record names the type. -/
theorem cryptogramRecordFollowsItsRule : Obligations.CryptogramRecordFollowsItsRule := by
  intro c tag m w hc s
  obtain ⟨hw, htag, hexec⟩ := exec_of_mem_acGenTable hc s
  obtain ⟨hkey, hcard, hdata, hdone⟩ := acGen_spec (CType.ofTag tag) m s
  simp only [← hexec, acRecord_eq, htag, and_assoc] at hkey hcard hdata hdone
  refine ⟨hw, fun h => endsWith_of_raise (hkey h), fun h h' => endsWith_of_raise (hcard h h'),
    fun h hpan hpsn hun hdin => endsWith_of_raise (hdata h ⟨hpan, hpsn⟩ hun (Nat.not_le.mpr hdin)),
    fun ⟨h, hpan, hpsn, hun, hdin⟩ => ?_⟩
  have hfits := acRecord_length_le_doutMax (CType.ofTag tag) m hun hdin
  rw [acRecord_eq, htag] at hfits
  obtain ⟨t, ht, hresult⟩ := doneWith_of_done (hdone h ⟨hpan, hpsn⟩ hun hdin) hfits
  exact ⟨t, _, _, _, ht, cryptogram_isCryptogram m s, acSessionKey_length m s, cryptogram_length m s, hresult⟩

/-- Settles O43: the comparison writes VFAIL and the output byte, and both branches are the DONE completion. -/
theorem cryptogramMismatchIsAResult : Obligations.CryptogramMismatchIsAResult := by
  intro c m w hc s
  obtain ⟨hw, hexec⟩ := exec_of_mem_acVerifyTable hc s
  obtain ⟨hkey, hoperand, hdata, hdone⟩ := acVerify_spec m s
  simp only [← hexec, and_assoc] at hkey hoperand hdata hdone
  refine ⟨hw, fun h => endsWith_of_raise (hkey h), fun h h' => endsWith_of_raise (hoperand h h'),
    fun h haux hpan hpsn hun hdin => endsWith_of_raise (hdata h haux ⟨hpan, hpsn⟩ hun (Nat.not_le.mpr hdin)),
    fun ⟨h, hpan, hpsn, hun, hdin⟩ haux => ?_⟩
  obtain ⟨t, ht, hresult⟩ := doneWith_of_doneVfail (hdone h haux ⟨hpan, hpsn⟩ hun hdin)
    (s.le_doutMax (by rw [testByte_length]; decide))
  refine ⟨t, _, _, _, ht, cryptogram_isCryptogram m s, fun hmatch => ?_, fun hmismatch => ?_⟩
  · have hbad : (s.cryptogram m != s.operand .aux0) = false := bne_eq_false_iff_eq.mpr hmatch
    rwa [hbad] at hresult
  · have hbad : (s.cryptogram m != s.operand .aux0) = true := bne_iff_ne.mpr hmismatch
    rwa [hbad] at hresult

/-- Settles O44: the ARQC and the padded ARC are one block each, so 3DES and the XOR can be undone. -/
theorem arpcMethodOneInverts : Obligations.ArpcMethodOneInverts := by
  intro s
  obtain ⟨hkey, haux, hdone⟩ := exec_arpcM1_spec s
  refine ⟨rfl, fun h => endsWith_of_raise (hkey h), fun h h' => endsWith_of_raise (haux h h'),
    fun h harqc harc => ?_⟩
  have hlen := tdesE_length (s.operand .key0) (xorBytes (s.operand .aux0) (padRight8 (s.operand .aux1)))
  obtain ⟨t, ht, hresult⟩ := doneWith_of_done (hdone h ⟨harqc, harc⟩) (s.le_doutMax (by omega))
  refine ⟨t, _, ht, hresult, hlen, by rw [padRight8_operand], ?_⟩
  rw [← padRight8_operand]
  exact xorBytes_tdesD_tdesE _ (by rwa [operand_length]) (padRight8_length (by rwa [operand_length]))

/-- Settles O45: the MAC is `rmac` of the three fields, and the output its first four bytes. -/
theorem arpcMethodTwoTruncatesTheMac : Obligations.ArpcMethodTwoTruncatesTheMac := by
  intro s
  obtain ⟨hkey, haux, hdone⟩ := exec_arpcM2_spec s
  refine ⟨rfl, fun h => endsWith_of_raise (hkey h), fun h h' => endsWith_of_raise (haux h h'),
    fun h harqc hcsu hdata => ?_⟩
  obtain ⟨t, ht, hresult⟩ := doneWith_of_done (hdone h ⟨harqc, hcsu, hdata⟩)
    (s.le_doutMax ((List.length_take_le _ _).trans (by decide)))
  exact ⟨t, _, ht, rmac_length _ _ _, rmac_isRetailMac _ _ _, hresult⟩

end Sys2Proof.Machine
end

section
/-! PROOFS. The PIN-block commands: a block nibble by nibble with the PAN field in and out, the five formats of each
operation as one, and what extraction reads of a block (R250 to R267). -/

namespace Sys2Proof.Machine

/-! ## The PAN field -/

theorem nib_xorBytes {a b : Bytes} {k : Nat} (ha : k < 2 * a.length) (hb : k < 2 * b.length) :
    nib (xorBytes a b) k = nib a k ^^^ nib b k := by
  rw [← nibs_length] at ha hb
  simp only [nib, nibs_xorBytes, List.getD_eq_getElem _ _ ha, List.getD_eq_getElem _ _ hb]
  rw [List.getD_eq_getElem _ _ (by rw [List.length_zipWith]; omega), List.getElem_zipWith]

theorem panDigits_even (pan : Bytes) :
    (List.replicate 4 0 ++ rightDigits 12 (pan.map digitOf).dropLast).length = 2 * 8 := by
  rw [List.length_append, List.length_replicate, rightDigits_length]

theorem panField_length (pan : Bytes) : (panField pan).length = 8 := pack_length _ 8 (panDigits_even pan)

/-- Place `k` of the field is `15 - k` places from its right end (R252). -/
theorem nib_panField (pan : Bytes) {k : Nat} (hk : k < 16) : nib (panField pan) k = panNibble pan k := by
  rw [panField, nib_pack _ (panDigits_even pan), panNibble]
  rcases Nat.lt_or_ge k 4 with h4 | h4
  · rw [List.getD_append _ _ _ _ (by rwa [List.length_replicate]), List.getD_replicate _ h4, if_neg (by omega)]
  · have hplace : k - 4 = 12 - 1 - (15 - k) := by omega
    rw [List.getD_append_right _ _ _ _ (by rwa [List.length_replicate]), List.length_replicate, hplace,
      rightDigits_getD _ (by omega), List.length_dropLast, List.length_map]
    simp only [and_iff_right h4]
    split
    case isTrue h =>
      have hi : pan.length - 1 - 1 - (15 - k) < pan.length - 1 := by omega
      rw [List.getD_eq_getElem?_getD, List.getElem?_dropLast, if_pos (by rwa [List.length_map]),
        ← List.getD_eq_getElem?_getD, map_digitOf_getD _ (by omega)]
      rfl
    case isFalse h => rfl

theorem usesPan_iff (f : PinFormat) : f.usesPan = true ↔ f = .iso0 ∨ f = .iso3 ∨ f = .iso4 := by
  cases f <;> decide

/-- XOR with the PAN field keeps a block a block. -/
theorem maskPan_length (f : PinFormat) {block : Bytes} (h : block.length = 8) (pan : Bytes) :
    (maskPan f block pan).length = 8 := by
  unfold maskPan
  split
  · rw [xorBytes_length, h, panField_length, Nat.min_self]
  · exact h

theorem nib_maskPan (f : PinFormat) (s : State) {block : Bytes} (h : block.length = 8) {k : Nat} (hk : k < 16) :
    nib (maskPan f block (s.operand .pan)) k = nib block k ^^^ maskNibble f s k := by
  simp only [maskPan, maskNibble, ← usesPan_iff]
  split
  · rw [nib_xorBytes (by omega) (by rw [panField_length]; omega), nib_panField _ hk]
  · exact BitVec.xor_zero.symm

/-- The PAN field is zero below nibble 4, so the control and length nibbles and two digits stay (R254). -/
theorem maskNibble_of_lt_four (f : PinFormat) (s : State) {k : Nat} (hk : k < 4) : maskNibble f s k = 0 := by
  have hnot : ¬ (4 ≤ k ∧ 15 - k < (s.operand .pan).length - 1) := by omega
  rw [maskNibble, panNibble, if_neg hnot, ite_self]

section
variable {f : PinFormat} {s s' : State} (h : s'.operand .pan = s.operand .pan)
include h

theorem maskNibble_congr (k : Nat) : maskNibble f s' k = maskNibble f s k := by
  rw [maskNibble, maskNibble, h]

theorem LegalPan.congr (hpan : LegalPan f s) : LegalPan f s' := by
  rw [← panOk_iff] at hpan ⊢
  have hlen : s'.len .pan = s.len .pan := by rw [← operand_length, h, operand_length]
  have hcap : s'.cap .pan = s.cap .pan := rfl
  rwa [State.panOk, State.digitsOk, h, hlen, hcap]

end

/-! ## The created block -/

/-- The padding of a format, in order (R250, R251). -/
def pinPadding (f : PinFormat) (s : State) : List Nibble := (List.range s.padCount).map (padNibble f s)

/-- What PIN.CREATE puts into DOUT (R254). -/
def pinBlock (f : PinFormat) (s : State) : Bytes :=
  maskPan f (clearBlock f (s.operand .pin) (pinPadding f s)) (s.operand .pan)

section
variable (f : PinFormat) {s : State} (h : s.len .pin ≤ 12)
include h

/-- The digits and their padding fill 14 nibbles (R250). -/
theorem clearNibbles_even :
    (f.number :: BitVec.ofNat 4 (s.operand .pin).length :: ((s.operand .pin).map digitOf ++ pinPadding f s)).length
      = 2 * 8 := by
  simp only [List.length_cons, List.length_append, List.length_map, operand_length, pinPadding, List.length_range,
    State.padCount]
  omega

theorem clearBlock_length : (clearBlock f (s.operand .pin) (pinPadding f s)).length = 8 :=
  pack_length _ 8 (clearNibbles_even f h)

theorem nib_clearBlock {k : Nat} (hk : k < 16) :
    nib (clearBlock f (s.operand .pin) (pinPadding f s)) k = clearNibble f s k := by
  rw [clearBlock, nib_pack _ (clearNibbles_even f h), operand_length]
  match k with
  | 0 => rfl
  | 1 => rfl
  | j + 2 =>
    rw [List.getD_cons_succ, List.getD_cons_succ, clearNibble, if_neg (by omega), if_neg (by omega),
      Nat.add_sub_cancel]
    rcases Nat.lt_or_ge j (s.len .pin) with hj | hj
    · rw [if_pos (by omega), List.getD_append _ _ _ _ (by rwa [List.length_map, operand_length]),
        map_digitOf_getD _ (by rwa [operand_length]), operand_getD s .pin j hj]
    · have hpad : j - s.len .pin < s.padCount := by rw [State.padCount]; omega
      rw [if_neg (by omega), List.getD_append_right _ _ _ _ (by rwa [List.length_map, operand_length]),
        List.length_map, operand_length]
      simp [pinPadding, hpad]

theorem pinBlock_length : (pinBlock f s).length = 8 := maskPan_length f (clearBlock_length f h) _

theorem nib_pinBlock {k : Nat} (hk : k < 16) : nib (pinBlock f s) k = clearNibble f s k ^^^ maskNibble f s k := by
  rw [pinBlock, nib_maskPan f s (clearBlock_length f h) hk, nib_clearBlock f h hk]

end

/-! ## The extracted PIN -/

/-- The length nibble of the unmasked block decides, and the digits behind it are the nibbles from 2 on (R262). -/
theorem extractPin_spec (f : PinFormat) (s : State) {b : Bytes} (hb : b.length = 8) :
    (¬ LegalPinNibble f s b → extractPin f b (s.operand .pan) = .error .invalidPinLength) ∧
    (LegalPinNibble f s b → ∃ v, extractPin f b (s.operand .pan) = .ok v ∧ IsExtractedPin f s b v) := by
  have hnib (k : Nat) (hk : k < 16) := nib_maskPan f s hb hk
  have hlen : (nibs (maskPan f b (s.operand .pan))).length = 16 := by rw [nibs_length, maskPan_length f hb]
  simp only [extractPin, LegalPinNibble, IsExtractedPin, ← hnib 1 (by decide)]
  generalize (nib (maskPan f b (s.operand .pan)) 1).toNat = l
  refine ⟨fun hbad => if_pos (by omega), fun ⟨hlo, hhi⟩ => ⟨_, if_neg (by omega), ?_, fun j hj => ?_⟩⟩
  · simp only [List.length_map, List.length_take, List.length_drop, hlen]
    omega
  · rw [List.getD_eq_getElem _ _ hj]
    simp only [List.length_map, List.length_take, List.length_drop, hlen] at hj
    rw [← hnib (2 + j) (by omega), nib, List.getD_eq_getElem _ _ (by omega)]
    simp only [List.getElem_map, List.getElem_take, List.getElem_drop]
    rfl

section
variable {f : PinFormat} {s : State} (hlen : s.len .pin ≤ 12)
include hlen

/-- XOR with the PAN field cancels the one in the block (R262). -/
theorem nib_pinBlock_unmasked {k : Nat} (hk : k < 16) :
    nib (pinBlock f s) k ^^^ maskNibble f s k = clearNibble f s k := by
  rw [nib_pinBlock f hlen hk, BitVec.xor_assoc, BitVec.xor_self, BitVec.xor_zero]

theorem clearNibble_one_toNat : (clearNibble f s 1).toNat = s.len .pin :=
  (BitVec.toNat_ofNat _ _).trans (Nat.mod_eq_of_lt (by omega))

theorem legalPinNibble_pinBlock (hlo : 4 ≤ s.len .pin) : LegalPinNibble f s (pinBlock f s) := by
  rw [LegalPinNibble, nib_pinBlock_unmasked hlen (by decide), clearNibble_one_toNat hlen]
  exact ⟨hlo, hlen⟩

/-- What is extracted from the block of a PIN is the PIN (R263). -/
theorem IsExtractedPin.eq_operand {v : Bytes} (hdigits : LegalDigits s .pin)
    (hv : IsExtractedPin f s (pinBlock f s) v) : v = s.operand .pin := by
  obtain ⟨hvlen, hvget⟩ := hv
  obtain ⟨-, hle⟩ := hdigits
  rw [nib_pinBlock_unmasked hlen (by decide), clearNibble_one_toNat hlen] at hvlen
  refine List.ext_getElem (by rw [hvlen, operand_length]) fun j hj hj' => ?_
  have hjl : j < s.len .pin := by omega
  have hdigit : clearNibble f s (2 + j) = digitOf (s.byte .pin j) := by
    rw [clearNibble, if_neg (by omega), if_neg (by omega), if_pos (by omega), Nat.add_sub_cancel_left]
  have hsmall : (s.byte .pin j).toNat ≤ 15 := (hle j hjl).trans (by decide)
  calc v[j] = v.getD j 0 := (List.getD_eq_getElem _ _ hj).symm
    _ = digitByte (digitOf (s.byte .pin j)) := by
      rw [hvget j hj, nib_pinBlock_unmasked hlen (by omega), hdigit]
      rfl
    _ = s.byte .pin j := digitByte_digitOf _ hsmall
    _ = (s.operand .pin)[j] := by rw [← operand_getD s .pin j hjl, List.getD_eq_getElem _ _ hj']

end

section
variable {f : PinFormat} {s s' : State} (h : s'.operand .pan = s.operand .pan) {b : Bytes}
include h

theorem LegalPinNibble.congr (hb : LegalPinNibble f s b) : LegalPinNibble f s' b := by
  rwa [LegalPinNibble, maskNibble_congr h]

theorem IsExtractedPin.congr {v : Bytes} (hv : IsExtractedPin f s' b v) : IsExtractedPin f s b v := by
  simpa only [IsExtractedPin, maskNibble_congr h] using hv

end

/-! ## The commands -/

theorem pinPadding_eq_replicate {f : PinFormat} {s : State} {d : Nibble} (h : ∀ j, padNibble f s j = d) :
    pinPadding f s = List.replicate s.padCount d := by
  rw [pinPadding, List.map_congr_left fun j _ => h j, List.map_const', List.length_range]

theorem pinPadding_eq_drawn {f : PinFormat} {s : State} {g : Byte → Nibble}
    (h : ∀ j, padNibble f s j = g (s.rngAt j)) : pinPadding f s = (s.drawn s.padCount).map g := by
  rw [pinPadding, State.drawn, List.map_map]
  exact List.map_congr_left fun j _ => h j

/-- The three commands of a format are the three operations at that format (R97, R251). -/
theorem exec_of_mem_pinTable {f : PinFormat} {c x d : Instr} (h : (f, c, x, d) ∈ pinTable) (s : State) :
    exec c s = pinCreate f (pinPadding f s) (pinDraws f s) s ∧ exec x s = pinExtract f s ∧
      exec d s = pinDecrypt f s := by
  simp only [pinTable, List.mem_cons, List.not_mem_nil, or_false, Prod.mk.injEq] at h
  obtain ⟨rfl, rfl, rfl, rfl⟩ | ⟨rfl, rfl, rfl, rfl⟩ | ⟨rfl, rfl, rfl, rfl⟩ | ⟨rfl, rfl, rfl, rfl⟩ |
    ⟨rfl, rfl, rfl, rfl⟩ := h
  · exact ⟨by rw [pinPadding_eq_replicate (d := 0xF) fun _ => rfl]; rfl, rfl, rfl⟩
  · exact ⟨by rw [pinPadding_eq_drawn (g := padRandomHex) fun _ => rfl]; rfl, rfl, rfl⟩
  · exact ⟨by rw [pinPadding_eq_replicate (d := 0xF) fun _ => rfl]; rfl, rfl, rfl⟩
  · exact ⟨by rw [pinPadding_eq_drawn (g := padRandomAF) fun _ => rfl]; rfl, rfl, rfl⟩
  · exact ⟨by rw [pinPadding_eq_replicate (d := 0xA) fun _ => rfl]; rfl, rfl, rfl⟩

/-- A command that draws and completes with `v` ends in DONE with `v` in DOUT (R334, R382). -/
theorem doneWith_of_done_afterDraws {i : Instr} {s : State} {v : Bytes} {n : Nat}
    (h : exec i s = done v (s.afterDraws n)) (hv : v.length ≤ s.doutMax) :
    ∃ t, exec i s = .next t ∧ DoneWith s t false false v n :=
  ⟨_, h, doneWith_spec s false false v n hv⟩

/-- The end that PIN.EXTRACT and PIN.DECRYPT share: the extraction from a block, with its length check (R262). -/
theorem extraction_of_complete {i : Instr} {f : PinFormat} {s : State} {b : Bytes} (hb : b.length = 8)
    (h : exec i s = complete (extractPin f b (s.operand .pan)) s) :
    (¬ LegalPinNibble f s b → EndsWith i s 0x04) ∧
    (LegalPinNibble f s b →
      ∃ t v, exec i s = .next t ∧ DoneWith s t false false v 0 ∧ IsExtractedPin f s b v) := by
  obtain ⟨herror, hok⟩ := extractPin_spec f s hb
  refine ⟨fun hbad => ?_, fun hlegal => ?_⟩
  · rw [herror hbad, complete_error] at h
    exact endsWith_of_raise h
  · obtain ⟨v, hv, hpin⟩ := hok hlegal
    rw [hv, complete_ok] at h
    obtain ⟨t, ht, hresult⟩ := doneWith_of_done h (s.le_doutMax ((extractPin_length_le hv).trans (by decide)))
    exact ⟨t, v, ht, hresult, hpin⟩

/-- A PIN.CREATE in DONE has passed its checks and holds its block (R253, R254). -/
theorem created_of_done {f : PinFormat} {c x d : Instr} (hc : (f, c, x, d) ∈ pinTable) {s t : State}
    (h : exec c s = .next t) (ht : t.st = .done) :
    (4 ≤ s.len .pin ∧ s.len .pin ≤ 12) ∧ LegalDigits s .pin ∧ LegalPan f s ∧ t.output = pinBlock f s := by
  obtain ⟨hexec, -, -⟩ := exec_of_mem_pinTable hc s
  rw [hexec] at h
  have hlen := pinCreate_done_len h ht
  obtain ⟨-, hoperand, hdone⟩ := pinCreate_spec f (pinPadding f s) (pinDraws f s) s
  by_cases hlegal : LegalDigits s .pin ∧ LegalPan f s
  · obtain ⟨hpin, hpan⟩ := hlegal
    have hfits : (pinBlock f s).length ≤ s.doutMax := s.le_doutMax ((pinBlock_length f hlen.2).trans_le (by decide))
    cases (hdone hlen hpin hpan).symm.trans h
    exact ⟨hlen, hpin, hpan, output_of_doutIs (doneWith_spec s false false _ _ hfits).dout hfits⟩
  · cases (hoperand hlen hlegal).symm.trans h
    simp at ht

theorem exec_pinTranslate (s : State) : exec .pinTranslate s = execPinTranslate s := rfl

theorem key1Ok_iff (s : State) : s.key1Ok = true ↔ LegalKey .des (s.len .key1) := keyLenOk_iff _ _

/-- PIN.TRANSLATE (R267). -/
theorem exec_pinTranslate_spec (s : State) :
    (¬ (LegalKey .des (s.len .key0) ∧ LegalKey .des (s.len .key1)) →
      exec .pinTranslate s = raise .invalidKeyLength s) ∧
    (LegalKey .des (s.len .key0) → LegalKey .des (s.len .key1) → s.len .aux0 ≠ 8 →
      exec .pinTranslate s = raise .invalidOperand s) ∧
    (LegalKey .des (s.len .key0) → LegalKey .des (s.len .key1) → s.len .aux0 = 8 → exec .pinTranslate s =
      done (blockE .des (s.operand .key1) (blockD .des (s.operand .key0) (s.operand .aux0))) s) := by
  simp only [← key0Ok_iff, ← key1Ok_iff, exec_pinTranslate]
  unfold execPinTranslate
  cases s.key0Ok .des <;> cases s.key1Ok <;> by_cases h : s.len .aux0 = 8 <;> simp [h]

/-! ## The statements -/

/-- Settles O46: the five commands are one by format, and the block is packed from 16 nibbles. -/
theorem pinCreateBuildsTheBlock : Obligations.PinCreateBuildsTheBlock := by
  intro f c x d hc s
  obtain ⟨hexec, -, -⟩ := exec_of_mem_pinTable hc s
  obtain ⟨hlen, hoperand, hdone⟩ := pinCreate_spec f (pinPadding f s) (pinDraws f s) s
  simp only [← hexec] at hlen hoperand hdone
  refine ⟨fun h => endsWith_of_raise (hlen h), fun hlo hhi h => endsWith_of_raise (hoperand ⟨hlo, hhi⟩ h),
    fun hlo hhi hpin hpan => ?_⟩
  have hblock := pinBlock_length f hhi
  obtain ⟨t, ht, hresult⟩ := doneWith_of_done_afterDraws (hdone ⟨hlo, hhi⟩ hpin hpan)
    (s.le_doutMax (hblock.trans_le (by decide)))
  refine ⟨t, pinBlock f s, ht, hresult, hblock, fun k hk => nib_pinBlock f hhi hk, fun k hk => ?_⟩
  rw [nib_pinBlock f hhi (by omega), maskNibble_of_lt_four f s hk]
  exact BitVec.xor_zero

/-- Settles O47: the five commands are one by format, and end in the extraction from AUX0. -/
theorem pinExtractReadsTheBlock : Obligations.PinExtractReadsTheBlock := by
  intro f c x d hc s
  obtain ⟨-, hexec, -⟩ := exec_of_mem_pinTable hc s
  obtain ⟨hoperand, hcomplete⟩ := pinExtract_spec f s
  simp only [← hexec] at hoperand hcomplete
  have hextract (haux : s.len .aux0 = 8) (hpan : LegalPan f s) :=
    extraction_of_complete (by rwa [operand_length]) (hcomplete haux hpan)
  exact ⟨fun h => endsWith_of_raise (hoperand h), fun haux hpan => (hextract haux hpan).1,
    fun haux hpan => (hextract haux hpan).2⟩

/-- Settles O48: the five commands are one by format, and end in the extraction from the decrypted block. -/
theorem pinDecryptReadsTheEncryptedBlock : Obligations.PinDecryptReadsTheEncryptedBlock := by
  rintro f c x d hc s b rfl
  obtain ⟨-, -, hexec⟩ := exec_of_mem_pinTable hc s
  obtain ⟨hkey, hoperand, hcomplete⟩ := pinDecrypt_spec f s
  simp only [← hexec] at hkey hoperand hcomplete
  have hextract (hlegal : LegalKey .des (s.len .key0)) (haux : s.len .aux0 = 8) (hpan : LegalPan f s) :=
    extraction_of_complete (blockD_length (alg := .des) (by rwa [operand_length]) (by rwa [operand_length]))
      (hcomplete hlegal haux hpan)
  exact ⟨fun h => endsWith_of_raise (hkey h), fun h h' => endsWith_of_raise (hoperand h h'),
    fun hlegal haux hpan => (hextract hlegal haux hpan).1, fun hlegal haux hpan => (hextract hlegal haux hpan).2⟩

/-- Settles O49: a PIN.CREATE in DONE has passed its checks, so its block passes those of PIN.EXTRACT. -/
theorem pinRoundTripReturnsThePin : Obligations.PinRoundTripReturnsThePin := by
  intro f c x d hc s s' t hcreate hst haux hpanEq
  obtain ⟨⟨hlo, hhi⟩, hpin, hpan, hblock⟩ := created_of_done hc hcreate hst
  rw [hblock] at haux
  have hauxLen : s'.len .aux0 = 8 := by rw [← operand_length, haux, pinBlock_length f hhi]
  obtain ⟨-, -, hextract⟩ := pinExtractReadsTheBlock f c x d hc s'
  rw [haux] at hextract
  obtain ⟨t', v, ht', hresult, hv⟩ :=
    hextract hauxLen (hpan.congr hpanEq) ((legalPinNibble_pinBlock hhi hlo).congr hpanEq)
  have hvpin : v = s.operand .pin := (hv.congr hpanEq).eq_operand hhi hpin
  have hvlen : v.length ≤ 448 := by rw [hvpin, operand_length]; omega
  exact ⟨t', ht', hresult.st, (output_of_doutIs hresult.dout (t'.le_doutMax hvlen)).trans hvpin⟩

/-- Settles O50: encryption under a legal key undoes decryption, for both keys. -/
theorem pinTranslateReencrypts : Obligations.PinTranslateReencrypts := by
  intro s
  obtain ⟨hkey, haux, hdone⟩ := exec_pinTranslate_spec s
  refine ⟨rfl, fun h => endsWith_of_raise (hkey h), fun h0 h1 h => endsWith_of_raise (haux h0 h1 h),
    fun h0 h1 h => ?_⟩
  have hblock : (s.operand .aux0).length = Alg.des.block := by rwa [operand_length]
  rw [← operand_length] at h0 h1
  obtain ⟨-, hclear, -, hback⟩ := blockFunctionsInvert .des _ _ h0 hblock
  obtain ⟨hlen, -, hundo, -⟩ := blockFunctionsInvert .des _ _ h1 hclear
  rw [operand_length] at h0 h1
  obtain ⟨t, ht, hresult⟩ := doneWith_of_done (hdone h0 h1 h) (s.le_doutMax (hlen.trans_le (by decide)))
  exact ⟨t, _, ht, hresult, hlen, rfl, by rw [hundo, hback]⟩

end Sys2Proof.Machine
end

section
/-! PROOFS. The key-component commands: parity byte by byte, the XOR of components and the closing one of a split, the
fields of the KeyShare record, the parse of component records; then the statements about these commands (R280 to
R297). -/

namespace Sys2Proof.Machine

/-! ## Parity -/

theorem fixByte_fixByte (b : Byte) : fixByte (fixByte b) = fixByte b := by
  obtain ⟨-, hodd⟩ := fixByte_spec b
  exact (fixByte_unique (fixByte b) (fixByte b) rfl hodd).symm

theorem checkParity_iff (k : Bytes) : checkParity k = true ↔ ∀ b ∈ k, ones b % 2 = 1 := by
  simp [checkParity, oddByte]

theorem fixParity_getD {k : Bytes} {j : Nat} (hj : j < k.length) : (fixParity k).getD j 0 = fixByte (k.getD j 0) := by
  simp [fixParity, hj]

/-- Every byte of a fixed string is the fixed byte of the string (R280). -/
theorem isFixed_fixParity {k : Bytes} {j : Nat} (hj : j < k.length) :
    IsFixed (k.getD j 0) ((fixParity k).getD j 0) := by
  rw [fixParity_getD hj]
  exact fixByte_spec _

/-! ## The XOR of components -/

theorem foldl_xor_eq_xor_foldl (cs : List Bytes) (j : Nat) (a : Byte) :
    cs.foldl (fun x c => x ^^^ c.getD j 0) a = a ^^^ cs.foldl (fun x c => x ^^^ c.getD j 0) 0 := by
  induction cs generalizing a with
  | nil => exact BitVec.xor_zero.symm
  | cons c cs ih =>
    have hzero (b : Byte) : 0 ^^^ b = b := BitVec.zero_xor
    rw [List.foldl_cons, List.foldl_cons, ih, ih (0 ^^^ _), hzero, BitVec.xor_assoc]

/-- XOR of strings of one length, byte by byte. -/
theorem foldl_xorBytes_spec {cs : List Bytes} {n : Nat} (hcs : ∀ c ∈ cs, c.length = n) {a : Bytes}
    (ha : a.length = n) :
    (cs.foldl xorBytes a).length = n ∧
    ∀ j, j < n → (cs.foldl xorBytes a).getD j 0 = cs.foldl (fun x c => x ^^^ c.getD j 0) (a.getD j 0) := by
  induction cs generalizing a with
  | nil => exact ⟨ha, fun _ _ => rfl⟩
  | cons c cs ih =>
    obtain ⟨hc, hcs⟩ := List.forall_mem_cons.mp hcs
    obtain ⟨hlen, hbyte⟩ := ih hcs (a := xorBytes a c) (by simp [ha, hc])
    refine ⟨hlen, fun j hj => ?_⟩
    rw [List.foldl_cons, List.foldl_cons, hbyte j hj, xorBytes_getD a c j (by omega) (by omega)]

/-- `xorAll` is the XOR of its strings (R290). -/
theorem xorAll_isXorOf {vs : List Bytes} {n : Nat} (hne : vs ≠ []) (hvs : ∀ v ∈ vs, v.length = n) :
    IsXorOf vs n (xorAll vs) := by
  cases vs with
  | nil => exact absurd rfl hne
  | cons v vs =>
    obtain ⟨hv, hvs⟩ := List.forall_mem_cons.mp hvs
    obtain ⟨hlen, hbyte⟩ := foldl_xorBytes_spec hvs hv
    refine ⟨hlen, fun j hj => ?_⟩
    rw [List.foldl_cons, show 0 ^^^ v.getD j 0 = v.getD j 0 from BitVec.zero_xor]
    exact hbyte j hj

/-- The XOR of strings is one string. -/
theorem IsXorOf.unique {vs : List Bytes} {n : Nat} {k k' : Bytes} (h : IsXorOf vs n k) (h' : IsXorOf vs n k') :
    k = k' := by
  obtain ⟨hlen, hbyte⟩ := h
  obtain ⟨hlen', hbyte'⟩ := h'
  refine List.ext_getElem (hlen.trans hlen'.symm) fun j hj hj' => ?_
  rw [← List.getD_eq_getElem k 0 hj, ← List.getD_eq_getElem k' 0 hj', hbyte j (by omega), hbyte' j (by omega)]

/-! ## The split -/

/-- The last component closes the XOR: with it the others give the key (R286). -/
theorem isXorOf_closure {cs : List Bytes} {key : Bytes} (hcs : ∀ c ∈ cs, c.length = key.length) :
    IsXorOf (cs ++ [cs.foldl xorBytes key]) key.length key := by
  obtain ⟨-, hbyte⟩ := foldl_xorBytes_spec hcs rfl
  refine ⟨rfl, fun j hj => ?_⟩
  rw [List.foldl_concat, hbyte j hj, foldl_xor_eq_xor_foldl cs j (key.getD j 0), BitVec.xor_comm, BitVec.xor_assoc,
    BitVec.xor_self, BitVec.xor_zero]

theorem isFixed_map_fixParity_blocksOf {b m i j : Nat} {d : Bytes} (hd : b * m ≤ d.length) (hi : i < m) (hj : j < b) :
    IsFixed (d.getD (b * i + j) 0) ((((blocksOf b m d).map fixParity).getD i []).getD j 0) := by
  have hend : b * (i + 1) ≤ d.length := (Nat.mul_le_mul_left b hi).trans hd
  have hwidth : b * i + j < b * (i + 1) := by rw [Nat.mul_succ]; omega
  have hblock : ((blocksOf b m d).map fixParity).getD i [] = fixParity (slice d (b * i) (b * (i + 1))) := by
    rw [← blocksOf_getD b m i d hi]
    exact List.getD_map _ [] fixParity
  rw [hblock, ← slice_getD d _ _ j hwidth]
  exact isFixed_fixParity (by rw [slice_length _ _ _ hend]; omega)

section
variable (s : State) (key : Bytes) {n : Nat}

/-- The components of a split that are drawn: all but the last (R286). -/
def drawnComponents (n : Nat) : List Bytes :=
  (blocksOf key.length (n - 1) (s.drawn ((n - 1) * key.length))).map fixParity

theorem splitKey_eq (n : Nat) : splitKey key n (s.drawn ((n - 1) * key.length)) =
    drawnComponents s key n ++ [(drawnComponents s key n).foldl xorBytes key] := rfl

@[simp] theorem drawnComponents_length : (drawnComponents s key n).length = n - 1 := by simp [drawnComponents]

theorem drawnComponents_mem_length : ∀ c ∈ drawnComponents s key n, c.length = key.length :=
  List.forall_mem_map.mpr fun b hb =>
    (fixParity_length b).trans (blocksOf_mem_length _ _ _ (by rw [drawn_length, Nat.mul_comm]) b hb)

/-- Component `i` takes the draws from `i * L` on (R286, R297). -/
theorem drawnComponents_isFixed {i j : Nat} (hi : i < n - 1) (hj : j < key.length) :
    IsFixed (s.rngAt (i * key.length + j)) (((drawnComponents s key n).getD i []).getD j 0) := by
  have hdraw : key.length * i + j < (n - 1) * key.length := calc
    key.length * i + j < key.length * (i + 1) := by rw [Nat.mul_succ]; omega
    _ ≤ (n - 1) * key.length := by rw [Nat.mul_comm]; exact Nat.mul_le_mul_right _ hi
  rw [Nat.mul_comm i, ← drawn_getD s _ _ hdraw]
  exact isFixed_map_fixParity_blocksOf (by rw [drawn_length, Nat.mul_comm]) hi hj

theorem splitKey_mem_length :
    ∀ c ∈ splitKey key n (s.drawn ((n - 1) * key.length)), c.length = key.length := by
  obtain ⟨hlast, -⟩ := foldl_xorBytes_spec (drawnComponents_mem_length s key (n := n)) rfl
  rw [splitKey_eq]
  exact List.forall_mem_append.mpr
    ⟨drawnComponents_mem_length s key, fun c hc => by rw [List.mem_singleton.mp hc, hlast]⟩

theorem splitKey_isSplit (hn : 1 ≤ n) : IsSplit s key n (splitKey key n (s.drawn ((n - 1) * key.length))) := by
  refine ⟨?_, splitKey_mem_length s key, fun i j hi hj => ?_, isXorOf_closure (drawnComponents_mem_length s key)⟩
  · rw [splitKey_eq, List.length_append, drawnComponents_length, List.length_singleton]
    omega
  · rw [splitKey_eq, List.getD_append _ _ _ _ (by rw [drawnComponents_length]; omega)]
    exact drawnComponents_isFixed s key (by omega) hj

end

/-! ## The KeyShare record -/

/-- A field of a record is the slice between what stands before it and what stands behind it. -/
theorem slice_of_eq_append {v p x q : Bytes} {i j : Nat} (hv : v = p ++ (x ++ q)) (hi : p.length = i)
    (hj : i + x.length = j) : slice v i j = x := by
  subst hv hi hj
  simp [slice]

theorem kcv_length {alg : Alg} {key : Bytes} (hk : LegalKey alg key.length) : (kcv alg key).length = 3 := by
  have hblock : (blockE alg key (zeros alg.block)).length = alg.block := blockE_length hk (zeros_length _)
  rw [kcv, slice_length _ _ _ (by rw [hblock]; cases alg <;> decide)]

theorem componentRecords_append (alg : Alg) (i : Nat) (cs ds : List Bytes) :
    componentRecords alg i (cs ++ ds) = componentRecords alg i cs ++ componentRecords alg (i + cs.length) ds := by
  induction cs generalizing i with
  | nil => rfl
  | cons c cs ih =>
    rw [List.cons_append, componentRecords, ih, componentRecords, List.length_cons, Nat.add_assoc, Nat.add_comm 1,
      List.append_assoc _ (componentRecords alg (i + 1) cs)]

section
variable {alg : Alg} {key : Bytes} {cs : List Bytes} (hk : LegalKey alg key.length)
  (hcs : ∀ c ∈ cs, c.length = key.length)
include hk hcs

theorem componentRecords_length (i : Nat) :
    (componentRecords alg i cs).length = cs.length * (key.length + 4) := by
  induction cs generalizing i with
  | nil => simp [componentRecords]
  | cons c cs ih =>
    obtain ⟨hc, hcs⟩ := List.forall_mem_cons.mp hcs
    have hkcv : (kcv alg c).length = 3 := kcv_length (hc ▸ hk)
    simp only [componentRecords, List.length_append, List.length_cons, List.length_nil, ih hcs, hkcv, hc,
      Nat.add_mul]
    omega

/-- The record of component `i` inside the records of all (R288). -/
theorem componentRecords_at {i : Nat} (hi : i < cs.length) : ∃ p q : Bytes, p.length = i * (key.length + 4) ∧
    componentRecords alg 1 cs =
      p ++ ([BitVec.ofNat 8 (i + 1)] ++ (cs.getD i [] ++ (kcv alg (cs.getD i []) ++ q))) := by
  have hbefore : (cs.take i).length = i := List.length_take_of_le hi.le
  refine ⟨componentRecords alg 1 (cs.take i), componentRecords alg (i + 2) (cs.drop (i + 1)), ?_, ?_⟩
  · rw [componentRecords_length hk fun c hc => hcs c (List.mem_of_mem_take hc), hbefore]
  · conv_lhs => rw [← List.take_append_drop i cs, List.drop_eq_getElem_cons hi]
    rw [componentRecords_append, componentRecords, hbefore, List.getD_eq_getElem _ _ hi, Nat.add_comm 1 i]
    simp only [List.append_assoc]

theorem keyShare_isKeyShare : IsKeyShare alg key cs (keyShare alg key cs) := by
  have hkcv : (kcv alg key).length = 3 := kcv_length hk
  have hshare : keyShare alg key cs = [BitVec.ofNat 8 cs.length, BitVec.ofNat 8 key.length] ++
      (key ++ (kcv alg key ++ componentRecords alg 1 cs)) := by simp only [keyShare, List.append_assoc]
  refine ⟨?_, slice_of_eq_append (p := []) hshare rfl rfl, slice_of_eq_append hshare rfl rfl,
    slice_of_eq_append (p := [BitVec.ofNat 8 cs.length, BitVec.ofNat 8 key.length] ++ key)
      (by rw [hshare, List.append_assoc]) (by simp; omega) (by rw [hkcv]; omega), fun i hi o ho => ?_⟩
  · simp only [hshare, List.length_append, List.length_cons, List.length_nil, hkcv, componentRecords_length hk hcs]
    omega
  · obtain ⟨p, q, hp, hrecords⟩ := componentRecords_at hk hcs hi
    have hcomponent : (cs.getD i []).length = key.length := by
      rw [List.getD_eq_getElem _ _ hi]
      exact hcs _ (List.getElem_mem hi)
    have hcheck : (kcv alg (cs.getD i [])).length = 3 := kcv_length (hcomponent ▸ hk)
    obtain ⟨head, hhead, hrecord⟩ : ∃ head : Bytes, head.length = o ∧ keyShare alg key cs =
        head ++ ([BitVec.ofNat 8 (i + 1)] ++ (cs.getD i [] ++ (kcv alg (cs.getD i []) ++ q))) :=
      ⟨[BitVec.ofNat 8 cs.length, BitVec.ofNat 8 key.length] ++ key ++ kcv alg key ++ p,
        by simp only [List.length_append, List.length_cons, List.length_nil, hkcv, hp]; omega,
        by rw [hshare, hrecords]; simp only [List.append_assoc]⟩
    refine ⟨slice_of_eq_append hrecord hhead rfl,
      slice_of_eq_append (p := head ++ [BitVec.ofNat 8 (i + 1)]) (by rw [hrecord, List.append_assoc])
        (by simp [hhead]) (by rw [hcomponent]),
      slice_of_eq_append (p := head ++ [BitVec.ofNat 8 (i + 1)] ++ cs.getD i []) (q := q)
        (by rw [hrecord]; simp only [List.append_assoc])
        (by simp only [List.length_append, List.length_singleton, hhead, hcomponent]) (by rw [hcheck]; omega)⟩

end

section
variable {alg : Alg} {key v : Bytes} {cs : List Bytes} (h : IsKeyShare alg key cs v)
include h

theorem IsKeyShare.length_le (hkey : key.length ≤ 32) (hcount : cs.length ≤ 9) : v.length ≤ 448 := by
  obtain ⟨hlen, -⟩ := h
  have hrecords : cs.length * (key.length + 4) ≤ 9 * 36 := Nat.mul_le_mul hcount (by omega)
  omega

/-- The components of a KeyShare, read back from where its fields stand (R288). -/
theorem IsKeyShare.map_slice_eq : ((List.range cs.length).map fun i =>
    slice v (6 + key.length + i * (key.length + 4)) (6 + key.length + i * (key.length + 4) + key.length)) = cs := by
  obtain ⟨-, -, -, -, hcomponent⟩ := h
  refine List.ext_getElem (by simp) fun i hi hi' => ?_
  obtain ⟨-, hvalue, -⟩ := hcomponent i hi' _ rfl
  have hstart : 5 + key.length + i * (key.length + 4) + 1 = 6 + key.length + i * (key.length + 4) := by omega
  rw [List.getElem_map, List.getElem_range, ← hstart, hvalue, List.getD_eq_getElem _ _ hi']

end

/-! ## The parse -/

theorem parseRecords_eq_some_iff {s : State} {n : Nat} {vs : List Bytes} :
    parseRecords n (s.operand .din) = some vs ↔ vs.length = n ∧ ParsesAs s vs := by
  refine ⟨fun h => parseRecords_some _ _ _ h, ?_⟩
  rintro ⟨rfl, hlt, hdin⟩
  rw [hdin]
  exact parseRecords_flatMap vs hlt

theorem parseRecords_eq_none_iff {s : State} {n : Nat} :
    parseRecords n (s.operand .din) = none ↔ ¬ ∃ vs : List Bytes, vs.length = n ∧ ParsesAs s vs := by
  simp only [← parseRecords_eq_some_iff, Option.eq_none_iff_forall_ne_some, not_exists, ne_eq]

theorem recordsOf_length {vs : List Bytes} {l : Nat} (h : ∀ v ∈ vs, v.length = l) :
    (recordsOf vs).length = vs.length * (l + 1) := by
  rw [recordsOf, List.length_flatMap, List.map_congr_left (g := fun _ => l + 1) fun v hv => by simp [h v hv]]
  simp

/-- Steps 3 and 4 of KEY.COMBINE in terms of a common length of the components (R290). -/
theorem combineComponents_of_length (alg : Alg) {vs : List Bytes} (hne : vs ≠ []) :
    ((¬ ∃ l : Nat, ∀ v ∈ vs, v.length = l) → combineComponents alg vs = .error .componentLengthMismatch) ∧
    ∀ l : Nat, (∀ v ∈ vs, v.length = l) →
      (¬ LegalKey alg l → combineComponents alg vs = .error .invalidKeyLength) ∧
      (LegalKey alg l → combineComponents alg vs = .ok (xorAll vs ++ kcv alg (xorAll vs))) := by
  obtain ⟨hmismatch, hillegal, hok⟩ := combineComponents_spec alg vs
  refine ⟨fun h => hmismatch fun hall => h ⟨_, hall⟩, fun l hl => ?_⟩
  have hhead : (vs.headD []).length = l := by
    cases vs with
    | nil => exact absurd rfl hne
    | cons v vs => exact hl v List.mem_cons_self
  rw [hhead] at hillegal hok
  exact ⟨hillegal hl, hok hl⟩

/-! ## The commands -/

theorem exec_parCheck (s : State) : exec .parCheck s = execParCheck s := rfl
theorem exec_parFix (s : State) : exec .parFix s = execParFix s := rfl

/-- PAR.CHECK (R295). -/
theorem exec_parCheck_spec (s : State) :
    (¬ s.len .din ≤ s.dataMax → exec .parCheck s = raise .invalidDataLength s) ∧
    (s.len .din ≤ s.dataMax → exec .parCheck s =
      doneParok (checkParity (s.operand .din)) (testByte (checkParity (s.operand .din))) s) := by
  simp only [← dinFits_iff, exec_parCheck]
  unfold execParCheck parokFlag
  cases s.dinFits <;> simp

/-- PAR.FIX (R296). -/
theorem exec_parFix_spec (s : State) :
    (¬ s.len .din ≤ s.dataMax → exec .parFix s = raise .invalidDataLength s) ∧
    (s.len .din ≤ s.dataMax → exec .parFix s = done (fixParity (s.operand .din)) s) := by
  simp only [← dinFits_iff, exec_parFix]
  unfold execParFix
  cases s.dinFits <;> simp

/-- The end of a PAR.CHECK whose data passes the length check: the flag and the byte of its test (R295). -/
theorem doneWith_of_parCheck {s : State} (hdata : s.len .din ≤ s.dataMax) {b : Bool}
    (hb : checkParity (s.operand .din) = b) :
    ∃ t, exec .parCheck s = .next t ∧ DoneWith s t false b (testByte b) 0 := by
  subst hb
  obtain ⟨-, hdone⟩ := exec_parCheck_spec s
  exact ⟨_, hdone hdata, doneWith_spec_zero s false _ _ (by rw [testByte_length]; exact s.le_doutMax (by decide))⟩

/-! ## The statements -/

/-- Settles O57, byte by byte. -/
theorem parityFixIsIdempotent : Obligations.ParityFixIsIdempotent := by
  refine fun k => ⟨?_, (checkParity_iff _).mpr (List.forall_mem_map.mpr fun b _ => (fixByte_spec b).2)⟩
  rw [fixParity, fixParity, List.map_map]
  exact List.map_congr_left fun b _ => fixByte_fixByte b

/-- Settles O51: byte `j` is draw `j` fixed. -/
theorem keyGenForcesOddParity : Obligations.KeyGenForcesOddParity := by
  intro s arg harg alg c w hc
  obtain ⟨hw, hexec⟩ : encode c = w ||| BitVec.ofNat 32 (arg * 2 ^ 16) ∧ exec c s = keyGen alg arg s := by
    rcases hc with ⟨rfl, rfl, rfl⟩ | ⟨rfl, rfl, rfl⟩ <;> exact ⟨by interval_cases arg <;> rfl, rfl⟩
  obtain ⟨hkey, hdone⟩ := keyGen_spec alg arg s
  simp only [← hexec] at hkey hdone
  refine ⟨hw, fun h => endsWith_of_raise (hkey h), fun h => ?_⟩
  have hlen : (fixParity (s.drawn (8 * arg))).length = 8 * arg := by rw [fixParity_length, drawn_length]
  obtain ⟨t, ht, hresult⟩ := doneWith_of_done_afterDraws (hdone h) (s.le_doutMax (by have := h.le_32; omega))
  refine ⟨t, _, ht, hresult, hlen, fun j hj => ?_⟩
  rw [← drawn_getD s _ j hj]
  exact isFixed_fixParity (by rwa [drawn_length])

/-- Settles O52: the components close to the key for every random stream, and the record lists them in order. -/
theorem keySplitBuildsTheShare : Obligations.KeySplitBuildsTheShare := by
  intro s n _ alg c hc
  have hexec : exec c s = keySplit alg n s := by rcases hc with ⟨rfl, rfl⟩ | ⟨rfl, rfl⟩ <;> rfl
  obtain ⟨hkey, hcount, hdone⟩ := keySplit_spec alg n s
  simp only [← hexec] at hkey hcount hdone
  refine ⟨fun h => endsWith_of_raise (hkey h), fun h hn => endsWith_of_raise (hcount h hn), fun h hlo hhi => ?_⟩
  have hlegal : LegalKey alg (s.operand .key0).length := by rwa [operand_length]
  have hsplit := splitKey_isSplit s (s.operand .key0) (n := n) (by omega)
  have ⟨hn, hmem, _⟩ := hsplit
  have hshare := keyShare_isKeyShare hlegal hmem
  have hfits := hshare.length_le hlegal.le_32 (hn.trans_le hhi)
  rw [operand_length] at hsplit hshare hfits
  obtain ⟨t, ht, hresult⟩ := doneWith_of_done_afterDraws (hdone h (by omega)) (s.le_doutMax hfits)
  exact ⟨t, _, _, ht, hresult, hsplit, hshare⟩

/-- Settles O53: DIN parses to the records it is the string of, and to nothing else. -/
theorem keyCombineXorsTheComponents : Obligations.KeyCombineXorsTheComponents := by
  intro s n _ alg c hc
  have hexec : exec c s = keyCombine alg n s := by rcases hc with ⟨rfl, rfl⟩ | ⟨rfl, rfl⟩ <;> rfl
  obtain ⟨hzero, hdata, hparse, hcombine⟩ := keyCombine_spec alg n s
  simp only [← hexec] at hzero hdata hparse hcombine
  refine ⟨fun h => endsWith_of_raise (hzero h), fun h0 h => endsWith_of_raise (k := .invalidDataLength) ?_,
    fun vs h0 hfits hn hvs => ?_⟩
  · by_cases hfits : s.len .din ≤ s.dataMax
    · exact hparse h0 hfits (parseRecords_eq_none_iff.mpr (h.resolve_left (by omega)))
    · exact hdata h0 hfits
  · have hanswer := hcombine vs h0 hfits (parseRecords_eq_some_iff.mpr ⟨hn, hvs⟩)
    have hne : vs ≠ [] := List.ne_nil_of_length_pos (by omega)
    obtain ⟨hmismatch, hlength⟩ := combineComponents_of_length alg hne
    refine ⟨fun h => endsWith_of_raise (hanswer.trans (congrArg (complete · s) (hmismatch h))), fun l hl => ?_⟩
    obtain ⟨hillegal, hok⟩ := hlength l hl
    refine ⟨fun h => endsWith_of_raise (hanswer.trans (congrArg (complete · s) (hillegal h))), fun h => ?_⟩
    have hvalue := hok h
    rw [hvalue, complete_ok] at hanswer
    obtain ⟨t, ht, hresult⟩ :=
      doneWith_of_done hanswer (s.le_doutMax ((combineComponents_length_le hvalue).trans (by decide)))
    exact ⟨t, _, ht, xorAll_isXorOf hne hl, hresult⟩

/-- Settles O54: the slices are the components of the split, whose XOR is the key. -/
theorem splitThenCombineRecoversTheKey : Obligations.SplitThenCombineRecoversTheKey := by
  intro s s' t n alg c d hcd hkey hlo hhi ht hdin
  obtain ⟨hc, hd⟩ : ((alg = .des ∧ c = .keySplitDes n) ∨ (alg = .aes ∧ c = .keySplitAes n)) ∧
      ((alg = .des ∧ d = .keyCombineDes n) ∨ (alg = .aes ∧ d = .keyCombineAes n)) := by
    rcases hcd with ⟨ha, hc, hd⟩ | ⟨ha, hc, hd⟩
    · exact ⟨.inl ⟨ha, hc⟩, .inl ⟨ha, hd⟩⟩
    · exact ⟨.inr ⟨ha, hc⟩, .inr ⟨ha, hd⟩⟩
  obtain ⟨-, -, hsplitDone⟩ := keySplitBuildsTheShare s n (by omega) alg c hc
  obtain ⟨t₁, v, cs, ht₁, hresult, ⟨hn, hmem, -, hxor⟩, hshare⟩ := hsplitDone hkey hlo hhi
  cases ht₁.symm.trans ht
  have hkeyLen : (s.operand .key0).length = s.len .key0 := operand_length s .key0
  have hle := hkey.le_32
  have hout : t.output = v := output_of_doutIs hresult.dout (t.le_doutMax (hshare.length_le (by omega) (by omega)))
  have hslices := hshare.map_slice_eq
  rw [hkeyLen] at hmem hxor hslices
  rw [hout, ← hn, hslices] at hdin
  have hfits : s'.len .din ≤ s'.dataMax := by
    have hrecords : cs.length * (s.len .key0 + 1) ≤ 9 * 33 := Nat.mul_le_mul (by omega) (by omega)
    obtain ⟨hmin, -⟩ := s'.dataMax_range
    rw [← operand_length, hdin, recordsOf_length hmem]
    omega
  have hparses : ParsesAs s' cs := ⟨fun v hv => by rw [hmem v hv]; omega, hdin⟩
  obtain ⟨-, -, hcombine⟩ := keyCombineXorsTheComponents s' n (by omega) alg d hd
  obtain ⟨-, hlength⟩ := hcombine cs (by omega) hfits hn hparses
  obtain ⟨-, hdone⟩ := hlength _ hmem
  obtain ⟨t', k, ht', hk, hresult'⟩ := hdone hkey
  rw [hk.unique hxor] at hresult'
  exact ⟨t', ht', hresult'⟩

/-- Settles O55: a legal key encrypts the zero block to a block. -/
theorem keyCheckValueEncryptsZeros : Obligations.KeyCheckValueEncryptsZeros := by
  intro s alg c w hc
  obtain ⟨hw, hexec⟩ : encode c = w ∧ exec c s = keyKcv alg s := by
    rcases hc with ⟨rfl, rfl, rfl⟩ | ⟨rfl, rfl, rfl⟩ <;> exact ⟨rfl, rfl⟩
  obtain ⟨hkey, hdone⟩ := keyKcv_spec alg s
  simp only [← hexec] at hkey hdone
  refine ⟨hw, fun h => endsWith_of_raise (hkey h), fun h => ?_⟩
  have hlen : (kcv alg (s.operand .key0)).length = 3 := kcv_length (by rwa [operand_length])
  obtain ⟨t, ht, hresult⟩ := doneWith_of_done (hdone h) (s.le_doutMax (hlen.trans_le (by decide)))
  exact ⟨t, _, ht, hresult, hlen, rfl⟩

/-- Settles O56: the test of PAR.CHECK is `checkParity`, and PAR.FIX fixes each byte. -/
theorem parityCommandsTestAndFix : Obligations.ParityCommandsTestAndFix := by
  intro s
  obtain ⟨hcheck, -⟩ := exec_parCheck_spec s
  obtain ⟨hfix, hfixed⟩ := exec_parFix_spec s
  refine ⟨rfl, rfl, fun h => ⟨endsWith_of_raise (hcheck (by omega)), endsWith_of_raise (hfix (by omega))⟩,
    fun h hodd => doneWith_of_parCheck h ((checkParity_iff _).mpr hodd),
    fun h hodd => doneWith_of_parCheck h (Bool.eq_false_iff.mpr fun hp => hodd ((checkParity_iff _).mp hp)),
    fun h => ?_⟩
  have hlen : (fixParity (s.operand .din)).length = s.len .din := by rw [fixParity_length, operand_length]
  obtain ⟨t, ht, hresult⟩ := doneWith_of_done (hfixed h) (hlen.trans_le (h.trans (Nat.le_add_right _ _)))
  exact ⟨t, _, ht, hresult, hlen, fun j hj => isFixed_fixParity (by rwa [operand_length])⟩

end Sys2Proof.Machine
end

section
/-! PROOFS. The errors of commands: which kinds each can end with, and that a command has its whole effect or none (R337,
R339, R344). -/

namespace Sys2Proof.Machine

/-! ## The kinds an answer can end with -/

/-- An answer that ends in ERROR does so with the code of one of these kinds (R331, R335). -/
def RaisesOnly (ks : List ErrKind) (o : Out) : Prop :=
  ∀ t : State, o = .next t → t.st = .error → ∃ k ∈ ks, t.err = k.code

section
variable {ks : List ErrKind} {k : ErrKind} {s : State} {o : Out}

theorem raisesOnly_raise (hk : k ∈ ks := by simp) : RaisesOnly ks (raise k s) := by
  rintro t ⟨⟩ -
  exact ⟨k, hk, rfl⟩

/-- A successful completion ends in DONE (R334). -/
theorem raisesOnly_doneWith (vf pk : Bool) (v : Bytes) : RaisesOnly ks (.next (s.doneWith vf pk v)) := by
  rintro t ⟨⟩ he
  simp at he

theorem raisesOnly_done (v : Bytes) : RaisesOnly ks (done v s) := raisesOnly_doneWith false false v

/-- One check of a command: its kind counts only where the check can fail. -/
theorem raisesOnly_if {p : Prop} [Decidable p] (ho : RaisesOnly ks o) (hk : p → k ∈ ks := by simp) :
    RaisesOnly ks (if p then raise k s else o) := by
  by_cases hp : p
  · rw [if_pos hp]
    exact raisesOnly_raise (hk hp)
  · rwa [if_neg hp]

theorem raisesOnly_complete {r : Except ErrKind Bytes} (hr : ∀ k : ErrKind, r = .error k → k ∈ ks) :
    RaisesOnly ks (complete r s) := by
  cases r with
  | ok v => exact raisesOnly_done v
  | error k => exact raisesOnly_raise (hr k rfl)

end

/-! ## Each command operation -/

/-- The kinds of a cipher command: ECB reads no IV, so nothing of its operands is an InvalidOperand (R151, R337). -/
def cipherKinds : Mode → List ErrKind
  | .ecb => [.invalidKeyLength, .invalidDataLength]
  | .cbc | .cfb | .ofb | .ctr => [.invalidKeyLength, .invalidDataLength, .invalidOperand]

theorem extractPin_error {f : PinFormat} {block pan : Bytes} {k : ErrKind} (h : extractPin f block pan = .error k) :
    k = .invalidPinLength := by
  simp only [extractPin] at h
  split at h <;> cases h
  rfl

theorem combineComponents_error {alg : Alg} {vs : List Bytes} {k : ErrKind} (h : combineComponents alg vs = .error k) :
    k = .componentLengthMismatch ∨ k = .invalidKeyLength := by
  simp only [combineComponents] at h
  split at h
  · cases h
    exact .inl rfl
  · split at h <;> cases h
    exact .inr rfl

section
variable (s : State)

theorem cipher_raises (alg : Alg) (m : Mode) (d : Dir) : RaisesOnly (cipherKinds m) (cipher alg m d s) := by
  refine raisesOnly_if (raisesOnly_if (raisesOnly_if (raisesOnly_done _) fun _ => ?data) fun iv => ?iv) fun _ => ?key
  case key => cases m <;> simp [cipherKinds]
  case data => cases m <;> simp [cipherKinds]
  case iv =>
    cases m with
    | ecb => simp [State.ivOk] at iv
    | cbc | cfb | ofb | ctr => simp [cipherKinds]

theorem macCbc_raises (alg : Alg) :
    RaisesOnly [.invalidKeyLength, .invalidDataLength, .invalidOperand] (macCbc alg s) :=
  raisesOnly_if (raisesOnly_if (raisesOnly_if (raisesOnly_done _)))

theorem macRetail_raises : RaisesOnly [.invalidKeyLength, .invalidDataLength, .invalidOperand] (execMacRetail s) :=
  raisesOnly_if (raisesOnly_if (raisesOnly_if (raisesOnly_done _)))

theorem macCmac_raises : RaisesOnly [.invalidKeyLength, .invalidDataLength] (execMacCmac s) :=
  raisesOnly_if (raisesOnly_if (raisesOnly_done _))

theorem cmacSubkeys_raises : RaisesOnly [.invalidKeyLength] (execCmacSubkeys s) :=
  raisesOnly_if (raisesOnly_done _)

theorem kdUdk_raises : RaisesOnly [.invalidKeyLength, .invalidOperand] (execKdUdk s) :=
  raisesOnly_if (raisesOnly_if (raisesOnly_done _))

theorem sessionKeyCommand_raises (m : Method) : RaisesOnly [.invalidKeyLength] (sessionKeyCommand m s) :=
  raisesOnly_if (raisesOnly_done _)

theorem dukptIpek_raises : RaisesOnly [.invalidKeyLength, .invalidOperand] (execDukptIpek s) :=
  raisesOnly_if (raisesOnly_if (raisesOnly_done _))

theorem dukptKeyset_raises : RaisesOnly [.invalidKeyLength, .invalidOperand] (execDukptKeyset s) :=
  raisesOnly_if (raisesOnly_if (raisesOnly_done _))

theorem ksnInc_raises : RaisesOnly [.counterOverflow, .invalidOperand] (execKsnInc s) :=
  raisesOnly_if (raisesOnly_if (raisesOnly_done _))

theorem acGen_raises (ty : CType) (m : Method) :
    RaisesOnly [.invalidKeyLength, .invalidDataLength, .invalidOperand] (acGen ty m s) :=
  raisesOnly_if (raisesOnly_if (raisesOnly_if (raisesOnly_if (raisesOnly_done _))))

/-- A cryptogram that differs is a result, not an error (R236, R332). -/
theorem acVerify_raises (m : Method) :
    RaisesOnly [.invalidKeyLength, .invalidDataLength, .invalidOperand] (acVerify m s) :=
  raisesOnly_if (raisesOnly_if (raisesOnly_if (raisesOnly_if (raisesOnly_if (raisesOnly_doneWith _ _ _)))))

theorem arpcM1_raises : RaisesOnly [.invalidKeyLength, .invalidOperand] (execArpcM1 s) :=
  raisesOnly_if (raisesOnly_if (raisesOnly_done _))

theorem arpcM2_raises : RaisesOnly [.invalidKeyLength, .invalidOperand] (execArpcM2 s) :=
  raisesOnly_if (raisesOnly_if (raisesOnly_done _))

theorem pinCreate_raises (f : PinFormat) (padding : List Nibble) (n : Nat) :
    RaisesOnly [.invalidPinLength, .invalidOperand] (pinCreate f padding n s) :=
  raisesOnly_if (raisesOnly_if (raisesOnly_if (raisesOnly_done _)))

theorem pinExtract_raises (f : PinFormat) : RaisesOnly [.invalidPinLength, .invalidOperand] (pinExtract f s) :=
  raisesOnly_if (raisesOnly_if (raisesOnly_complete fun _ h => by simp [extractPin_error h]))

theorem pinDecrypt_raises (f : PinFormat) :
    RaisesOnly [.invalidKeyLength, .invalidPinLength, .invalidOperand] (pinDecrypt f s) :=
  raisesOnly_if (raisesOnly_if (raisesOnly_if (raisesOnly_complete fun _ h => by simp [extractPin_error h])))

theorem pinTranslate_raises : RaisesOnly [.invalidKeyLength, .invalidOperand] (execPinTranslate s) :=
  raisesOnly_if (raisesOnly_if (raisesOnly_if (raisesOnly_done _)))

theorem keyGen_raises (alg : Alg) (arg : Nat) : RaisesOnly [.invalidKeyLength] (keyGen alg arg s) :=
  raisesOnly_if (raisesOnly_done _)

theorem keySplit_raises (alg : Alg) (n : Nat) :
    RaisesOnly [.invalidKeyLength, .componentCountOutOfRange] (keySplit alg n s) :=
  raisesOnly_if (raisesOnly_if (raisesOnly_done _))

/-- KEY.COMBINE finds a bad count, a DIN that is too long or no record list, and components of bad lengths (R290). -/
theorem keyCombine_raises (alg : Alg) (n : Nat) :
    RaisesOnly [.invalidKeyLength, .invalidDataLength, .componentLengthMismatch, .componentCountOutOfRange]
      (keyCombine alg n s) := by
  refine raisesOnly_if (raisesOnly_if ?_)
  cases parseRecords n (s.operand .din) with
  | none => exact raisesOnly_raise
  | some vs => exact raisesOnly_complete fun _ h => by rcases combineComponents_error h with rfl | rfl <;> simp

theorem keyKcv_raises (alg : Alg) : RaisesOnly [.invalidKeyLength] (keyKcv alg s) :=
  raisesOnly_if (raisesOnly_done _)

theorem parCheck_raises : RaisesOnly [.invalidDataLength] (execParCheck s) :=
  raisesOnly_if (raisesOnly_doneWith _ _ _)

theorem parFix_raises : RaisesOnly [.invalidDataLength] (execParFix s) :=
  raisesOnly_if (raisesOnly_done _)

end

/-! ## Every command -/

/-- The checks of every command stand in its row of the table (R337). -/
theorem exec_raises (i : Instr) (s : State) : RaisesOnly (kindsOf i) (exec i s) := by
  cases i with
  | desEcbEnc | desEcbDec | desCbcEnc | desCbcDec | desCfbEnc | desCfbDec | desOfbEnc | desOfbDec | desCtrEnc
  | desCtrDec | aesEcbEnc | aesEcbDec | aesCbcEnc | aesCbcDec | aesCfbEnc | aesCfbDec | aesOfbEnc | aesOfbDec
  | aesCtrEnc | aesCtrDec => exact cipher_raises s _ _ _
  | macCbcDes | macCbcAes => exact macCbc_raises s _
  | macRetail => exact macRetail_raises s
  | macCmac => exact macCmac_raises s
  | cmacSubkeys => exact cmacSubkeys_raises s
  | kdUdk => exact kdUdk_raises s
  | kdSkCommon | kdSkVisa | kdSkMc => exact sessionKeyCommand_raises s _
  | dukptIpek => exact dukptIpek_raises s
  | dukptKeyset => exact dukptKeyset_raises s
  | ksnInc => exact ksnInc_raises s
  | acGenArqcCommon | acGenArqcVisa | acGenArqcMc | acGenTcCommon | acGenTcVisa | acGenTcMc | acGenAacCommon
  | acGenAacVisa | acGenAacMc => exact acGen_raises s _ _
  | acVerifyCommon | acVerifyVisa | acVerifyMc => exact acVerify_raises s _
  | arpcM1 => exact arpcM1_raises s
  | arpcM2 => exact arpcM2_raises s
  | pinCreateIso0 | pinCreateIso1 | pinCreateIso2 | pinCreateIso3 | pinCreateIso4 => exact pinCreate_raises s _ _ _
  | pinExtractIso0 | pinExtractIso1 | pinExtractIso2 | pinExtractIso3 | pinExtractIso4 => exact pinExtract_raises s _
  | pinDecryptIso0 | pinDecryptIso1 | pinDecryptIso2 | pinDecryptIso3 | pinDecryptIso4 => exact pinDecrypt_raises s _
  | pinTranslate => exact pinTranslate_raises s
  | keyGenDes arg | keyGenAes arg => exact keyGen_raises s _ arg
  | keySplitDes n | keySplitAes n => exact keySplit_raises s _ n
  | keyCombineDes n | keyCombineAes n => exact keyCombine_raises s _ n
  | keyKcvDes | keyKcvAes => exact keyKcv_raises s _
  | parCheck => exact parCheck_raises s
  | parFix => exact parFix_raises s

/-- Settles O22. -/
theorem errorKindsFollowTheTable : Obligations.ErrorKindsFollowTheTable :=
  fun i s t h he => exec_raises i s t h he

/-- A kind's code is a nonzero code of STATUS.ERR (R331). -/
theorem ErrKind.code_legal (k : ErrKind) : k.code ≠ 0x00 ∧ k.code ∈ errCodes := by cases k <;> decide

/-- Settles O20: a command answers with one of the two completions. -/
theorem commandsCompleteAllOrNothing : Obligations.CommandsCompleteAllOrNothing := by
  intro i s
  have hc := exec_completes i s
  generalize exec i s = o at hc
  cases hc with
  | done fits => exact ⟨_, rfl, .inl ⟨_, _, _, _, doneWith_spec s _ _ _ _ fits⟩⟩
  | raised k =>
    obtain ⟨hne, hcodes⟩ := k.code_legal
    exact ⟨_, rfl, .inr ⟨k.code, hne, hcodes, raised_spec s k⟩⟩

end Sys2Proof.Machine
end

section
/-! PROOFS. Reset, ZEROIZE, the interrupt and the bus while BUSY (R340, R370, R373, R376). -/

namespace Sys2Proof.Machine

/-! ## Reset and ZEROIZE -/

/-- With the reset line high the step is the reset, in either agent's turn (R370). -/
theorem step_of_resetIn {s : State} (hr : s.resetIn.headD false = true) : step s = .next s.sampled.coreReset := by
  rw [step, agentStep, if_pos hr]

/-- Settles O2: the reset line goes before both agents. -/
theorem resetLineClearsTheCore : Obligations.ResetLineClearsTheCore := by
  intro s hr
  have hr' : s.resetIn.headD false = true := by rw [List.headD_eq_head?_getD, hr, Option.getD_some]
  exact ⟨_, step_of_resetIn hr', coreReset_spec s.sampled, rfl, rfl, rfl, rfl, rfl⟩

/-- Settles O3. -/
theorem zeroizeKeepsOnlyIen : Obligations.ZeroizeKeepsOnlyIen := by
  rintro s v h2 t rfl
  rw [busWrite_zeroize h2]
  exact ⟨zeroized_spec s, rfl, by simp [State.irq], rfl, rfl, rfl⟩

/-! ## The interrupt -/

/-- A completion, of a command or of a word of no row, sets the pending bit and leaves IEN (R334, R335, R340). -/
theorem completionStep_irq {s t : State} (h : completionStep s = .next t) : t.irqPending = true ∧ t.ie = s.ie := by
  rcases completionStep_cases s with ⟨i, hi⟩ | hi
  · obtain ⟨kept, -, pending, -⟩ := commandsWriteOnlyTheirOutputs i s t (hi.symm.trans h)
    exact ⟨pending, kept.ie⟩
  · cases hi.symm.trans h
    exact ⟨rfl, rfl⟩

/-- A CTRL write that starts or acknowledges clears the pending bit (R27, R340). -/
theorem busWrite_ctrl_irqPending {s : State} {v : Word} (hb : s.st ≠ .busy)
    (h : v.getLsbD 0 = true ∨ v.getLsbD 1 = true ∧ s.st ≠ .idle) : (s.busWrite .w32 0x004 v).irqPending = false := by
  rw [busWrite_ctrl hb]
  cases h2 : v.getLsbD 2 with
  | true => rw [writeCtrl_zeroize h2, State.zeroized_irqPending]
  | false =>
    cases h0 : v.getLsbD 0 with
    | true =>
      rw [writeCtrl_start h2 h0, start_of_not_busy hb]
      exact (launched_spec s).irqPending
    | false =>
      obtain ⟨h1, hi⟩ := h.resolve_left (Bool.eq_false_iff.mp h0)
      have hst : s.st = .done ∨ s.st = .error := by
        cases hs : s.st with
        | idle => exact absurd hs hi
        | busy => exact absurd hs hb
        | done => exact .inl rfl
        | error => exact .inr rfl
      rw [writeCtrl_ack h2 h0 h1, ack_eq, if_pos hst]
      exact (acked_spec s).irqPending

/-- No bus write sets the pending bit (R27, R340). -/
theorem busWrite_irqPending {s : State} (h : s.irqPending = false) (w : AccessWidth) (off : Offset) (v : Word) :
    (s.busWrite w off v).irqPending = false := by
  by_cases hb : s.st = .busy
  · rcases busWrite_busy hb w off v with he | ⟨-, -, -, he⟩
    · rw [he, h]
    · rw [he, State.zeroized_irqPending]
  · cases ha : s.access w off with
    | none => rw [busWrite_none ha, h]
    | some l =>
      rw [busWrite_some ha, if_neg hb]
      by_cases hl : l = .ctrl
      · subst hl
        rcases writeCtrl_cases s v hb with ⟨-, he⟩ | ⟨-, -, he⟩ | ⟨-, -, -, -, he⟩ | he
        · exact congrArg State.irqPending he
        · exact congrArg State.irqPending he
        · exact congrArg State.irqPending he
        · exact (congrArg State.irqPending he).trans h
      · exact (writeLoc_resultKept s v hl).1.irqPending.trans h

/-- Settles O13: of what a step can be, only the completion sets the pending bit. -/
theorem onlyCompletionSetsTheInterrupt : Obligations.OnlyCompletionSetsTheInterrupt := by
  refine ⟨fun s => rfl, fun i s t h => ?_, fun s t hc h => ?_, fun s v hb h => busWrite_ctrl_irqPending hb h,
    fun s v h2 => ?_, fun s t hr h => ?_, fun s t h h0 h1 => ?_⟩
  · obtain ⟨kept, -, pending, -⟩ := commandsWriteOnlyTheirOutputs i s t h
    exact ⟨pending, kept.ie⟩
  · exact completionStep_irq (s := s.sampled) ((step_of_coreTurn hc).symm.trans h)
  · rw [busWrite_zeroize h2, State.zeroized_irqPending]
  · cases (step_of_resetIn hr).symm.trans h
    rfl
  · have hpending : s.sampled.tick.irqPending = false := (sampled_tick_coreKept s).irqPending.trans h0
    rcases step_next h with ⟨-, rfl⟩ | ⟨hc, -⟩ | ⟨w, off, v, -, hm⟩ | hm
    · simp at h1
    · exact hc
    · rw [hm.coreKept.irqPending, busWrite_irqPending hpending] at h1
      cases h1
    · rw [hm.coreKept.irqPending, hpending] at h1
      cases h1

/-! ## The bus while BUSY -/

/-- STATE shows in STATUS, DOUT_LEN and DOUT only (R62). -/
theorem readLoc_withSt (s : State) (q : SeqState) {l : Loc} (h1 : l ≠ .status) (h2 : l ≠ .doutLen)
    (h3 : ∀ k, l ≠ .dout k) : ({ s with st := q } : State).readLoc l = s.readLoc l := by
  cases l with
  | status => exact absurd rfl h1
  | doutLen => exact absurd rfl h2
  | dout k => exact absurd rfl (h3 k)
  | id | ctrl | cmd | ien | atc => rfl
  | len b => cases b <;> rfl
  | win b k => rfl

theorem busRead_withSt (s : State) (q : SeqState) {off : Offset} (h1 : off ≠ 0x008) (h2 : off ≠ 0x050)
    (h3 : off.toNat < 0x2000) : ({ s with st := q } : State).busRead .w32 off = s.busRead .w32 off := by
  have hacc : ({ s with st := q } : State).access .w32 off = s.access .w32 off := access_congr rfl .w32 off
  cases ha : s.access .w32 off with
  | none => rw [busRead_none ha, busRead_none (hacc.trans ha)]
  | some l =>
    obtain ⟨-, -, hl⟩ := access_eq_some.mp ha
    have hat := locate_at hl
    rw [busRead_some ha, busRead_some (hacc.trans ha), readLoc_withSt]
    · rintro rfl
      exact h1 (BitVec.eq_of_toNat_eq hat)
    · rintro rfl
      exact h2 (BitVec.eq_of_toNat_eq hat)
    · rintro k rfl
      exact absurd hat.1 (Nat.not_le.mpr h3)

/-- Settles O6: a write while BUSY is ZEROIZE or nothing, and a read sees STATE in three locations only. -/
theorem writesWhileBusyAreIgnored : Obligations.WritesWhileBusyAreIgnored := by
  intro s hb
  refine ⟨fun w off v h2 => ?_, fun off h4 hm => ?_, fun v h2 => ?_, ⟨s.status, busRead_some (access_status s), ?_⟩, ?_,
    fun off h4 hlo hhi => ?_, fun off h1 h2 h3 => (busRead_withSt s .idle h1 h2 h3).symm⟩
  · rcases busWrite_busy hb w off v with he | ⟨-, hoff, hz, -⟩
    · exact he
    · exact absurd ((h2 hoff).symm.trans hz) (by decide)
  · obtain ⟨l, hl⟩ := Option.ne_none_iff_exists'.mp fun hn => access_eq_none_iff.mp hn ⟨rfl, h4, hm⟩
    exact busWriteResp_some hl
  · rw [busWrite_zeroize h2]
    exact zeroized_spec s
  · obtain ⟨hcode, -⟩ := status_fields s
    rw [hcode, hb]
    rfl
  · rw [busRead_some (l := .doutLen) rfl, State.readLoc, if_pos hb]
  · obtain ⟨-, hmax, -⟩ := s.dataMax_range
    rw [busRead_some (access_eq_some.mpr ⟨rfl, h4, locate_dout hmax ⟨hlo, hhi⟩⟩), State.readLoc, if_pos hb]

end Sys2Proof.Machine
end

section
/-! PROOFS. The text layer: hex text read back, and calls with an argument that is no hex text (R312, R313, R320). -/

namespace Sys2Proof.Machine

/-! ## Hex text -/

/-- A hex digit of `hex` is one of `0` to `9` and `A` to `F` (R313). -/
theorem hexChar_range (n : Nibble) :
    (0x30 ≤ (hexChar n).toNat ∧ (hexChar n).toNat ≤ 0x39) ∨ (0x41 ≤ (hexChar n).toNat ∧ (hexChar n).toNat ≤ 0x46) := by
  revert n
  decide

/-- Reading back a hex digit gives its nibble (R311, R313). -/
theorem hexVal_hexChar (n : Nibble) : hexVal (hexChar n) = some n := by
  revert n
  decide

theorem isBlank_hexChar (n : Nibble) : isBlank (hexChar n) = false := by
  revert n
  decide

/-- The text `hex` gives holds nothing to strip (R310, R313). -/
theorem strip_hex (b : Bytes) : strip (hex b) = hex b := by
  refine List.filter_eq_self.mpr (List.forall_mem_map.mpr fun n _ => ?_)
  rw [isBlank_hexChar, Bool.not_false]

theorem unhexPairs_hex (b : Bytes) : unhexPairs (hex b) = .ok b := by
  induction b with
  | nil => rfl
  | cons x b ih =>
    have hcons : hex (x :: b) = hexChar (hiNibble x) :: hexChar (loNibble x) :: hex b := rfl
    rw [hcons, unhexPairs, hexVal_hexChar, hexVal_hexChar, ih]
    simp only [hi_append_lo]

/-! ## Calls in text form -/

/-- The conversion of a hex text has one error (R312). -/
theorem unhexPairs_error {l : List Char} {e : CallError} (h : unhexPairs l = .error e) : e = .invalidHexInput := by
  unfold unhexPairs at h
  split at h
  · cases h
  · cases h
    rfl
  · split at h <;> cases h
    rfl

theorem argBytes_error {b : Buf} {text : List Char} {e : CallError} (h : argBytes b text = .error e) :
    e = .invalidHexInput := by
  unfold argBytes at h
  split at h
  · cases h
  · exact unhexPairs_error h

/-- Only PAN, PSN and PIN take digit strings (R38, R316). -/
theorem Buf.digits_eq_false {b : Buf} (hpan : b ≠ .pan) (hpsn : b ≠ .psn) (hpin : b ≠ .pin) : b.digits = false := by
  cases b with
  | pan => exact absurd rfl hpan
  | psn => exact absurd rfl hpsn
  | pin => exact absurd rfl hpin
  | key0 | key1 | iv | ksn | un | aux0 | aux1 | aux2 | din => rfl

/-- One argument that has no bytes ends the conversion of all of them (R312, R320). -/
theorem argValues_eq_error {args : List (Buf × List Char)} {b : Buf} {text : List Char} (hmem : (b, text) ∈ args)
    (hbad : ∀ a : Bytes, argBytes b text ≠ .ok a) : argValues args = .error .invalidHexInput := by
  induction args with
  | nil => cases hmem
  | cons p r ih =>
    obtain ⟨c, t⟩ := p
    cases hc : argBytes c t with
    | error e => simp only [argValues, hc, argBytes_error hc]
    | ok a =>
      rcases List.mem_cons.mp hmem with h | h
      · cases h
        exact absurd hc (hbad a)
      · simp only [argValues, hc, ih h]

/-- Settles O58: every argument is converted before the script is made. -/
theorem hexTextRoundTrips : Obligations.HexTextRoundTrips := by
  refine ⟨fun b => ⟨?_, ?_, List.forall_mem_map.mpr fun n _ => hexChar_range n⟩,
    fun dataMax c b text hmem hpan hpsn hpin hbad => ?_⟩
  · rw [unhex, strip_hex, unhexPairs_hex]
  · rw [hex, List.length_map, nibs_length]
  · have hdigits : b.digits = false := Buf.digits_eq_false hpan hpsn hpin
    have hargs := argValues_eq_error hmem fun a => by simpa [argBytes, hdigits] using hbad a
    rw [TextCall.script, hargs]

end Sys2Proof.Machine
end
